-- ==== Sys2Proof/Word.lean ====
section
/-! DEFINITION. The word types of the DIAG core (spec 00_scope.md rules R10 to R12) and the two fixed
sets of names its commands and its arithmetic use. -/

namespace Sys2Proof

/-- A byte of a bus access (rule R64). -/
abbrev Byte := BitVec 8

/-- Every register of the window is 64 bits wide, bits 63..0 (rule R10). -/
abbrev Word := BitVec 64

/-- A raw tick count as the core stores it: TICK_W = 32 bits, two's complement (rules R7, R31, R41). -/
abbrev Tick := BitVec 32

/-- An IEEE 754 binary64 value, held as its 64-bit pattern (rules R12, R65). -/
abbrev F64 := BitVec 64

/-- The two AxisTransform instances (rules R2, R53): instance F has orientation forward, instance L has
orientation lateral, fixed in the block. -/
inductive AxisInst where
  | forward
  | lateral
deriving DecidableEq, Repr

/-- The four binary64 operations of rule R12, as names for the result a NaN-producing operation leaves
open (`Config.freeNaN`). -/
inductive FloatOp where
  | add
  | sub
  | mul
  | div
deriving DecidableEq, Repr

/-- QNAN of rule R12. -/
def qnan : F64 := 0x7FF8000000000000#64

/-- PI64 of rule R12, the binary64 value nearest to pi. -/
def pi64 : F64 := 0x400921FB54442D18#64

/-- SQRT2_64 of rule R12, the binary64 value nearest to the square root of 2. -/
def sqrt2 : F64 := 0x3FF6A09E667F3BCD#64

end Sys2Proof
end

