-- ==== Sys2Proof/Syntax.lean ====
section
/-! DEFINITION. The commands of the DIAG core: one constructor per row of spec/opcode_table.json (rule
R86, 30_encoding.md). -/

namespace Sys2Proof

/-- A command. -/
inductive Instr where
  /-- NOP, OP 0x00, format N (rule R170). -/
  | nop
  /-- AXS, OP 0x01, format X: the field AX selects the AxisTransform instance (rules R83, R103). -/
  | axs (ax : AxisInst)
  /-- AXS2, OP 0x02, format N (rule R112). -/
  | axs2
  /-- EDG, OP 0x03, format E: IDX is the detector, R the raw sampled boolean (rules R84, R162). -/
  | edg (idx : BitVec 4) (r : Bool)
  /-- LVS, OP 0x04, format N (rule R137). -/
  | lvs
  /-- CYC, OP 0x05, format N (rule R171). -/
  | cyc
  /-- RST, OP 0xA5, format N (rule R172). -/
  | rst
deriving DecidableEq, Repr

end Sys2Proof
end

