-- ==== Sys2Proof/Decode.lean ====
section
/-! DEFINITION. The command decoder of rule R80 (30_encoding.md) as a total function of the 64-bit
command word, and the encoder of rules R82 to R84. The index check of EDG (ECODE 3) needs NEDGE and is
made by the machine before EDG does anything (`execEdg`, assumption log 9). -/

namespace Sys2Proof

/-- Why a command word is not a command (rule R87). -/
inductive DecodeError where
  /-- OP not in the opcode map, ECODE 1. -/
  | unknownOp
  /-- a listed OP with a reserved bit of its format nonzero, ECODE 2. -/
  | reservedBits
deriving DecidableEq, Repr

/-- The bits of v from bit lo upwards, `v[63:lo]` of rule R10. -/
def bitsFrom (v : Word) (lo : Nat) : Word := v >>> lo

/-- OP, `v[7:0]`: the operation is selected by it alone (rule R81). -/
def opField (v : Word) : BitVec 8 := v.extractLsb' 0 8

/-- AX, `v[8]`: 0 is instance F, 1 is instance L (rule R83). -/
def axField (v : Word) : AxisInst := if v.getLsbD 8 then .lateral else .forward

/-- IDX, `v[11:8]` (rule R84). -/
def idxField (v : Word) : BitVec 4 := v.extractLsb' 8 4

/-- R, `v[12]` (rule R84). -/
def rField (v : Word) : Bool := v.getLsbD 12

/-- The command of a format whose reserved bits are `v[63:lo]`, which must be 0. -/
def unlessReserved (v : Word) (lo : Nat) (i : Instr) : Except DecodeError Instr :=
  if bitsFrom v lo = 0#64 then .ok i else .error .reservedBits

/-- The decode of rule R80. -/
def decodeCommand (v : Word) : Except DecodeError Instr :=
  if opField v = 0x00#8 then unlessReserved v 8 .nop
  else if opField v = 0x01#8 then unlessReserved v 9 (.axs (axField v))
  else if opField v = 0x02#8 then unlessReserved v 8 .axs2
  else if opField v = 0x03#8 then unlessReserved v 13 (.edg (idxField v) (rField v))
  else if opField v = 0x04#8 then unlessReserved v 8 .lvs
  else if opField v = 0x05#8 then unlessReserved v 8 .cyc
  else if opField v = 0xA5#8 then unlessReserved v 8 .rst
  else .error .unknownOp

/-- The AX bit of an instance (rule R83). -/
def axBit : AxisInst → BitVec 1
  | .forward => 0#1
  | .lateral => 1#1

/-- The command word of a command (rules R82 to R84, R88). -/
def encode : Instr → Word
  | .nop => 0#56 ++ 0x00#8
  | .axs ax => 0#55 ++ axBit ax ++ 0x01#8
  | .axs2 => 0#56 ++ 0x02#8
  | .edg idx r => 0#51 ++ BitVec.ofBool r ++ idx ++ 0x03#8
  | .lvs => 0#56 ++ 0x04#8
  | .cyc => 0#56 ++ 0x05#8
  | .rst => 0#56 ++ 0xA5#8

/-- The instruction the decoder reads from the nbits-bit word w, bit 0 the least significant. A command
is always one 64-bit word (rule R81), so the bits above nbits are 0 and a longer word is none. -/
def decodeTableWord (nbits w : Nat) : Option Instr :=
  if w % 2 ^ nbits < 2 ^ 64 then
    match decodeCommand (BitVec.ofNat 64 (w % 2 ^ nbits)) with
    | .ok i => some i
    | .error _ => none
  else none

end Sys2Proof
end

