-- ==== Sys2Proof/Config.lean ====
section
/-! DEFINITION. The configuration record of rule R7 (00_scope.md), its default values (rule R9), the
three OPEN parameters, and the one value the spec leaves free in the arithmetic. -/

namespace Sys2Proof

/-- The constants of rule R7, fixed when the block is built; no access or command changes one (rule
R46). TICK_W is the type `Tick`, since rules R31 and R41 fix it at 32. -/
structure Config where
  /-- BASE: bus address of the register window (OPEN, 92 D2). -/
  base : Nat
  /-- NEDGE: number of EdgeDetectors, 2 to 16. -/
  nedge : Nat
  /-- TPR: ticks per revolution, shared by both AxisTransform instances, 1 to 2^31 - 1. -/
  tpr : Nat
  /-- WD_F: wheel diameter of instance F, inches. -/
  wdF : F64
  /-- WD_L: wheel diameter of instance L, inches. -/
  wdL : F64
  /-- OFF_F: mounting offset of instance F (OPEN, 92 D8); no operation of the core reads it (rule R6). -/
  offF : F64
  /-- OFF_L: mounting offset of instance L (OPEN, 92 D8); no operation of the core reads it (rule R6). -/
  offL : F64
  /-- LMIN: LEVER_MIN, degrees. -/
  lmin : F64
  /-- LMAX: LEVER_MAX, degrees. -/
  lmax : F64
  /-- START_BOOST: end of the launch zone, degrees. -/
  startBoost : F64
  /-- SNAP_ZONE: width of the snap zone below LMAX, degrees. -/
  snapZone : F64
  /-- EPS: the transition epsilon, degrees. -/
  eps : F64
  /-- BOOST: speed in the launch and snap zones. -/
  boost : BitVec 8
  /-- FAST: cruise and retract speed when the auxiliary toggle is true. -/
  fast : BitVec 8
  /-- SLOW: cruise and retract speed when the auxiliary toggle is false. -/
  slow : BitVec 8
  /-- HOLD: Idle hold speed. -/
  hold : BitVec 8
  /-- CADENCE_MS: host control-cycle period, informational only; no rule depends on it (rule R213). -/
  cadenceMs : Nat
deriving DecidableEq, Repr

/-- BASE of the default configuration: an OPEN parameter (92 D2), so nothing can be proved of its value.
Assumption log 4. -/
opaque Config.openBase : Nat

/-- OFF_F of the default configuration: an OPEN parameter (92 D8). Assumption log 5. -/
opaque Config.openOffF : F64

/-- OFF_L of the default configuration: an OPEN parameter (92 D8). Assumption log 5. -/
opaque Config.openOffL : F64

/-- The sign (bit 51) and the payload (bits 50..0) of the NaN that an operation of rule R12 delivers. The
spec and IEEE 754 do not say which NaN it is. A free value, a function of the operation and its operands.
Assumption log 6. -/
opaque Config.freeNaN : FloatOp → F64 → F64 → BitVec 52

/-- The default configuration: the values of rule R7's table, taken as defaults by rule R9. -/
def Config.default : Config where
  base := Config.openBase
  nedge := 4
  tpr := 8192
  wdF := 0x4000000000000000#64
  wdL := 0x4000000000000000#64
  offF := Config.openOffF
  offL := Config.openOffL
  lmin := 0x0000000000000000#64
  lmax := 0x4070E00000000000#64
  startBoost := 0x4024000000000000#64
  snapZone := 0x4024000000000000#64
  eps := 0x4000000000000000#64
  boost := 127#8
  fast := 70#8
  slow := 30#8
  hold := 50#8
  cadenceMs := 10

end Sys2Proof
end

