-- ==== Sys2Proof/Machine/Float64.lean ====
section
/-! DEFINITION. IEEE 754 binary64 arithmetic and comparison as rule R12 (00_scope.md) takes them: `f64`,
`fadd`, `fsub`, `fmul`, `fdiv` with round-to-nearest-even, and the ordered comparisons `fle` and `fge`.
The layout is rule R65's. A finite value is an exact integer number of units of 2^-1074, each operation is
computed exactly and rounded once at the end. Assumption log 13: the semantics is IEEE 754's, which the
spec names without restating. -/

namespace Sys2Proof

/-- Bit 63, the sign. -/
def F64.sign (x : F64) : Bool := x.getLsbD 63

/-- Bits 62:52, the biased exponent. -/
def F64.expo (x : F64) : Nat := x.toNat / 2 ^ 52 % 2 ^ 11

/-- Bits 51:0, the fraction. -/
def F64.frac (x : F64) : Nat := x.toNat % 2 ^ 52

def F64.isNaN (x : F64) : Bool := F64.expo x == 2047 && F64.frac x != 0

def F64.isInf (x : F64) : Bool := F64.expo x == 2047 && F64.frac x == 0

def F64.isFinite (x : F64) : Bool := F64.expo x != 2047

/-- The value with the sign bit inverted. -/
def F64.neg (x : F64) : F64 := x ^^^ 0x8000000000000000#64

/-- The magnitude of the finite value whose exponent and fraction bits, as one number, are p: a whole
number of units of 2^-1074 (subnormals have exponent field 0). -/
def F64.unitsOf (p : Nat) : Nat :=
  if p / 2 ^ 52 = 0 then p % 2 ^ 52 else (2 ^ 52 + p % 2 ^ 52) * 2 ^ (p / 2 ^ 52 - 1)

/-- The magnitude of a finite x in units of 2^-1074. -/
def F64.mag (x : F64) : Nat := F64.unitsOf (x.toNat % 2 ^ 63)

/-- The signed value of a finite x in units of 2^-1074. -/
def F64.units (x : F64) : Int := if F64.sign x then -(F64.mag x : Int) else F64.mag x

/-- The exact value of a finite x. -/
def F64.value (x : F64) : Rat := (F64.units x : Rat) / 2 ^ 1074

/-- The value with the given sign whose exponent and fraction bits, as one number, are p. -/
def F64.pack (neg : Bool) (p : Nat) : F64 := BitVec.ofNat 64 ((if neg then 2 ^ 63 else 0) + p)

/-- Exponent and fraction bits of an infinity. -/
def F64.infBits : Nat := 2047 * 2 ^ 52

def F64.inf (neg : Bool) : F64 := F64.pack neg F64.infBits

def F64.zero (neg : Bool) : F64 := F64.pack neg 0

/-- How many units of 2^-1074, as a power of two, the last place of the rounded num/den is worth: 0 as long
as the integer part of num/den has at most 53 bits. -/
def F64.lastPlace (num den : Nat) : Nat := Nat.log2 (num / den) - 52

/-- num/den rounded to the nearest integer, ties to even. -/
def F64.nearestEven (num den : Nat) : Nat :=
  if den < 2 * (num % den) || (2 * (num % den) == den && num / den % 2 == 1) then num / den + 1
  else num / den

/-- Exponent and fraction bits of num/den units of 2^-1074 rounded to nearest, ties to even, as if the exponent
had no upper bound. A carry out of the significand moves into the exponent by itself, because the two fields
are adjacent. -/
def F64.unbounded (num den : Nat) : Nat :=
  2 ^ 52 * F64.lastPlace num den + F64.nearestEven num (den * 2 ^ F64.lastPlace num den)

/-- The rounding of rule R12: `unbounded`, or infinity on overflow. -/
def F64.round (num den : Nat) : Nat :=
  if F64.infBits ≤ F64.unbounded num den then F64.infBits else F64.unbounded num den

/-- The NaN an operation delivers: quiet, with the sign and payload left open by the spec and by IEEE 754.
Assumption log 6. -/
def F64.nanResult (op : FloatOp) (x y : F64) : F64 :=
  (Config.freeNaN op x y).extractLsb' 51 1 ++ 0x7FF#11 ++ 1#1 ++ (Config.freeNaN op x y).extractLsb' 0 51

/-- The sum of two values that are not NaN; `nan` is what infinity minus infinity gives. An exact zero sum is
+0 unless both addends are negative zeros. -/
def F64.sum (nan x y : F64) : F64 :=
  if F64.isInf x then
    if F64.isInf y && F64.sign x != F64.sign y then nan else x
  else if F64.isInf y then y
  else if F64.units x + F64.units y = 0 then F64.zero (F64.sign x && F64.sign y)
  else F64.pack (decide (F64.units x + F64.units y < 0)) (F64.round (F64.units x + F64.units y).natAbs 1)

/-- `fadd` of rule R12. -/
def F64.add (x y : F64) : F64 :=
  if F64.isNaN x || F64.isNaN y then F64.nanResult .add x y else F64.sum (F64.nanResult .add x y) x y

/-- `fsub` of rule R12. -/
def F64.sub (x y : F64) : F64 :=
  if F64.isNaN x || F64.isNaN y then F64.nanResult .sub x y
  else F64.sum (F64.nanResult .sub x y) x (F64.neg y)

/-- `fmul` of rule R12. -/
def F64.mul (x y : F64) : F64 :=
  if F64.isNaN x || F64.isNaN y then F64.nanResult .mul x y
  else if F64.isInf x || F64.isInf y then
    if F64.mag x = 0 || F64.mag y = 0 then F64.nanResult .mul x y
    else F64.inf (F64.sign x != F64.sign y)
  else F64.pack (F64.sign x != F64.sign y) (F64.round (F64.mag x * F64.mag y) (2 ^ 1074))

/-- `fdiv` of rule R12. -/
def F64.div (x y : F64) : F64 :=
  if F64.isNaN x || F64.isNaN y then F64.nanResult .div x y
  else if F64.isInf x then
    if F64.isInf y then F64.nanResult .div x y else F64.inf (F64.sign x != F64.sign y)
  else if F64.isInf y then F64.zero (F64.sign x != F64.sign y)
  else if F64.mag y = 0 then
    if F64.mag x = 0 then F64.nanResult .div x y else F64.inf (F64.sign x != F64.sign y)
  else F64.pack (F64.sign x != F64.sign y) (F64.round (2 ^ 1074 * F64.mag x) (F64.mag y))

/-- `f64(n)` of rule R12. -/
def F64.ofInt (n : Int) : F64 :=
  match n with
  | .ofNat k => F64.pack false (F64.round (2 ^ 1074 * k) 1)
  | .negSucc k => F64.pack true (F64.round (2 ^ 1074 * (k + 1)) 1)

/-- The place of a value that is not NaN in the order of binary64 values; both zeros are at 0. -/
def F64.key (x : F64) : Int :=
  if F64.sign x then -((x.toNat % 2 ^ 63 : Nat) : Int) else ((x.toNat % 2 ^ 63 : Nat) : Int)

/-- `fle` of rule R12: false when either operand is a NaN. -/
def F64.le (x y : F64) : Bool := !F64.isNaN x && !F64.isNaN y && decide (F64.key x ≤ F64.key y)

/-- `fge` of rule R12: false when either operand is a NaN. -/
def F64.ge (x y : F64) : Bool := !F64.isNaN x && !F64.isNaN y && decide (F64.key y ≤ F64.key x)

/-- x < y, an IEEE ordered comparison, for the constraints of rule R8. -/
def F64.lt (x y : F64) : Bool := !F64.isNaN x && !F64.isNaN y && decide (F64.key x < F64.key y)

end Sys2Proof
end

