-- ==== Sys2Proof/Machine/State.lean ====
section
/-! DEFINITION. The state of the DIAG core (10_state.md): the contents of the window's registers and the
configuration record (rule R20), and beside them the model's own two fields, the accesses still to come and
the values that reads have returned, which are the outside world's and not the core's (rule R23). -/

namespace Sys2Proof.Machine

/-- The lever state (rules R27, R130). The fourth pattern of the two flags is unreachable, and the state type
excludes it as 93_implementation_defined.md entry 2.8 says. Assumption log 10. -/
inductive LeverState where
  | idle
  | extending
  | retracting
deriving DecidableEq, Repr

/-- The fields of STATUS (rule R25). Every bit not named reads 0 (`Status.toWord`). -/
structure Status where
  /-- UNAV_F, bit 0. -/
  unavF : Bool
  /-- UNAV_L, bit 1. -/
  unavL : Bool
  /-- L_ACTIVE and L_RETRACT, bits 2 and 3. -/
  lever : LeverState
  /-- CMDV, bit 4: RES_TGT and RES_SPD hold an actuator command. -/
  cmdv : Bool
  /-- TACC, bit 5: the last lever step accepted a trigger edge. -/
  tacc : Bool
  /-- TIGN, bit 6: the last lever step saw a trigger edge and ignored it. -/
  tign : Bool
  /-- ILL, bit 7, sticky. -/
  ill : Bool
  /-- ACCERR, bit 8, sticky. -/
  accerr : Bool
  /-- ECODE, bits 15:12: code of the first error since the last reset. -/
  ecode : BitVec 4
deriving DecidableEq, Repr

/-- The errors of rule R180. -/
inductive ErrorCode where
  /-- 1, OP not in the opcode map. -/
  | illOp
  /-- 2, a reserved bit of the command's format nonzero. -/
  | illRsv
  /-- 3, EDG with an index out of range. -/
  | illIdx
  /-- 4, access not exactly 8 bytes, or misaligned. -/
  | accForm
  /-- 5, write to a read-only register. -/
  | accRo
  /-- 6, access to a reserved offset. -/
  | accRsv
deriving DecidableEq, Repr

/-- The registers of the window, in the order of rule R21. -/
inductive RegName where
  | cmd
  | status
  | argA
  | argB
  | argPos
  | argIn
  | resF
  | resL
  | resTgt
  | resSpd
  | resEdge
  | edgeLast
  | lastAF
  | lastBF
  | lastAL
  | lastBL
  | cfgId
  | cfgTpr
  | cfgWdF
  | cfgWdL
  | cfgOffF
  | cfgOffL
  | cfgLmin
  | cfgLmax
  | cfgBzone
  | cfgSzone
  | cfgEps
  | cfgSpeeds
deriving DecidableEq, Repr

/-- The two agents that reach the window (rules R3, R193). -/
inductive Agent where
  | host
  | reporter
deriving DecidableEq, Repr

/-- What a bus access does. -/
inductive AccessOp where
  | read
  | write (v : Word)
deriving DecidableEq, Repr

/-- One bus access to the window (rules R13, R60, R61): `off` is `addr - BASE`, which lies in 0x00..0xFF for
every access that reaches the core, and `width` is the number of bytes it moves. -/
structure Access where
  agent : Agent
  off : BitVec 8
  width : Nat
  op : AccessOp
deriving DecidableEq, Repr

/-- What can happen to the core: an access of an agent, or the block's reset input (rule R201). -/
inductive Event where
  | access (a : Access)
  | resetInput
deriving DecidableEq, Repr

/-- The value a read returned, and to which agent. -/
structure Reply where
  agent : Agent
  value : Word
deriving DecidableEq, Repr

/-- The state of the DIAG core. -/
structure State where
  /-- The configuration record, part of the architectural state by rule R20; nothing changes it (rule R46). -/
  cfg : Config
  /-- STATUS, offset 0x08 (rule R25). -/
  status : Status
  /-- ARG_A, offset 0x10 (rule R31). -/
  argA : Tick
  /-- ARG_B, offset 0x18 (rule R32). -/
  argB : Tick
  /-- ARG_POS, offset 0x20 (rule R33). -/
  argPos : F64
  /-- ARG_IN, offset 0x28, bits 4:0 (rule R34). -/
  argIn : BitVec 5
  /-- RES_F, offset 0x30 (rule R35). -/
  resF : F64
  /-- RES_L, offset 0x38 (rule R36). -/
  resL : F64
  /-- RES_TGT, offset 0x40 (rule R37). -/
  resTgt : F64
  /-- RES_SPD, offset 0x48, bits 7:0 (rule R38). -/
  resSpd : BitVec 8
  /-- RES_EDGE, offset 0x50: bit n is the last output of detector n (rule R39); NEDGE is at most 16. -/
  resEdge : BitVec 16
  /-- EDGE_LAST, offset 0x58: bit n is the stored sample of detector n (rule R40). -/
  edgeLast : BitVec 16
  /-- LAST_AF, offset 0x60 (rule R41). -/
  lastAF : Tick
  /-- LAST_BF, offset 0x68 (rule R42). -/
  lastBF : Tick
  /-- LAST_AL, offset 0x70 (rule R43). -/
  lastAL : Tick
  /-- LAST_BL, offset 0x78 (rule R44). -/
  lastBL : Tick
  /-- The model's own field, not the core's: what will happen to the core, in the one total order of rule R67,
  first event first. Assumption log 1. -/
  pending : List Event
  /-- The model's own field, not the core's: the values reads have returned, newest first. Assumption log 3. -/
  replies : List Reply
deriving DecidableEq, Repr

/-- No access, command or configuration stops the core with a fault: an error is recorded in STATUS and the core
accepts the next access (rules R181, R187, R214). The type has no constructor, so no step can fault, which is
the spec's own behaviour: neither safe nor unsafe differences arise from it. Assumption log 16. -/
inductive Fault where
deriving DecidableEq, Repr

/-- Why the model answers no next state. -/
inductive Refusal where
  /-- Raised by an arm of `exec` for a command without a meaning; no arm does. Safe. -/
  | notModelled (mnemonic : String)
  /-- Raised by `step` in a state whose configuration is illegal: "A model refuses an illegal configuration: it
  has no machine for it" (rule R8). Safe. Assumption log 7. -/
  | illegalConfiguration
deriving DecidableEq, Repr

/-- STATUS after reset (rules R25, R200): UNAV_F = UNAV_L = 1, Idle, every other field 0. -/
def Status.reset : Status where
  unavF := true
  unavL := true
  lever := .idle
  cmdv := false
  tacc := false
  tign := false
  ill := false
  accerr := false
  ecode := 0#4

/-- The core right after reset, in the default configuration (rules R9, R200), with no event to come and no read
made. A program is loaded from outside: the events of `pending` are the agents' (assumption log 1). -/
def State.reset : State where
  cfg := Config.default
  status := Status.reset
  argA := 0#32
  argB := 0#32
  argPos := 0x0000000000000000#64
  argIn := 0#5
  resF := qnan
  resL := qnan
  resTgt := qnan
  resSpd := 0#8
  resEdge := 0#16
  edgeLast := 0#16
  lastAF := 0#32
  lastBF := 0#32
  lastAL := 0#32
  lastBL := 0#32
  pending := []
  replies := []

end Sys2Proof.Machine
end

