-- ==== Sys2Proof/Machine/Flags.lean ====
section
/-! DEFINITION. STATUS as a 64-bit word (rule R25), the encoding of the lever state in it (rule R27), and the
error fields' update (rule R181). -/

namespace Sys2Proof.Machine

/-- L_ACTIVE, STATUS bit 2 (rule R27). -/
def LeverState.active : LeverState → Bool
  | .idle => false
  | .extending => true
  | .retracting => true

/-- L_RETRACT, STATUS bit 3 (rule R27). -/
def LeverState.retract : LeverState → Bool
  | .idle => false
  | .extending => false
  | .retracting => true

/-- The value STATUS reads as: bits 15:12 ECODE, 11:9 zero, then ACCERR, ILL, TIGN, TACC, CMDV, L_RETRACT, L_ACTIVE,
UNAV_L and UNAV_F down to bit 0, with bits 63:16 zero (rule R25). -/
def Status.toWord (t : Status) : Word :=
  0#48 ++ t.ecode ++ 0#3 ++ BitVec.ofBool t.accerr ++ BitVec.ofBool t.ill
    ++ BitVec.ofBool t.tign ++ BitVec.ofBool t.tacc ++ BitVec.ofBool t.cmdv
    ++ BitVec.ofBool t.lever.retract ++ BitVec.ofBool t.lever.active
    ++ BitVec.ofBool t.unavL ++ BitVec.ofBool t.unavF

/-- The ECODE value of an error (rule R180). -/
def ErrorCode.code : ErrorCode → BitVec 4
  | .illOp => 1#4
  | .illRsv => 2#4
  | .illIdx => 3#4
  | .accForm => 4#4
  | .accRo => 5#4
  | .accRsv => 6#4

/-- Errors 1, 2 and 3 set ILL, the others ACCERR (rule R181). -/
def ErrorCode.isIllegalCommand : ErrorCode → Bool
  | .illOp => true
  | .illRsv => true
  | .illIdx => true
  | .accForm => false
  | .accRo => false
  | .accRsv => false

/-- Recording an error (rule R181): the sticky bit of its kind is set, and ECODE keeps the first code. -/
def Status.record (t : Status) (e : ErrorCode) : Status :=
  { t with
    ill := t.ill || e.isIllegalCommand
    accerr := t.accerr || !e.isIllegalCommand
    ecode := if t.ecode = 0#4 then e.code else t.ecode }

end Sys2Proof.Machine
end

