-- ==== Sys2Proof/Machine/Operands.lean ====
section
/-! DEFINITION. The data operands of the commands, taken from the operand registers when the command executes
(rule R85, 30_encoding.md), and the per-instance unit state an AxisTransform reads (rule R101). -/

namespace Sys2Proof.Machine

/-- ARG_IN.VA, bit 0 (rule R34). -/
def State.va (s : State) : Bool := s.argIn.getLsbD 0

/-- ARG_IN.VB, bit 1 (rule R34). -/
def State.vb (s : State) : Bool := s.argIn.getLsbD 1

/-- ARG_IN.T0, bit 2 (rule R34). -/
def State.t0 (s : State) : Bool := s.argIn.getLsbD 2

/-- ARG_IN.T1, bit 3 (rule R34). -/
def State.t1 (s : State) : Bool := s.argIn.getLsbD 3

/-- ARG_IN.AUX, bit 4 (rule R34). -/
def State.aux (s : State) : Bool := s.argIn.getLsbD 4

/-- Both channels hold a good read (rule R104). -/
def State.sampleValid (s : State) : Bool := s.va && s.vb

/-- lastA of instance i (rules R41, R43). -/
def State.lastA (s : State) : AxisInst → Tick
  | .forward => s.lastAF
  | .lateral => s.lastAL

/-- lastB of instance i (rules R42, R44). -/
def State.lastB (s : State) : AxisInst → Tick
  | .forward => s.lastBF
  | .lateral => s.lastBL

/-- `deltaA = currA - lastA` as an exact integer, with no unwrapping (rule R101). -/
def State.deltaA (s : State) (i : AxisInst) : Int := s.argA.toInt - (s.lastA i).toInt

/-- `deltaB = currB - lastB` as an exact integer, with no unwrapping (rule R101). -/
def State.deltaB (s : State) (i : AxisInst) : Int := s.argB.toInt - (s.lastB i).toInt

end Sys2Proof.Machine
end

