-- ==== Sys2Proof/Machine/Ops.lean ====
section
/-! DEFINITION. The named operations over the registers that the commands and the bus share: recording an error
(rule R181), ResetCore (rule R200), EdgeObserve (rule R160), and the read of a register (rules R24 to R52). -/

namespace Sys2Proof.Machine

/-- `raise` of rule R181, the only thing an error does: the error fields of STATUS record it and nothing else
changes. There is no trap and no return from one (rules R187, R188). -/
def State.raise (s : State) (e : ErrorCode) : State := { s with status := s.status.record e }

/-- ResetCore of rule R200: every register of the window takes its reset value, and the configuration stays. What
is still to happen to the core, and what reads have returned, are not the core's. -/
def State.resetCore (s : State) : State :=
  { s with
    status := Status.reset
    argA := 0#32
    argB := 0#32
    argPos := 0x0000000000000000#64
    argIn := 0#5
    resF := qnan
    resL := qnan
    resTgt := qnan
    resSpd := 0#8
    resEdge := 0#16
    edgeLast := 0#16
    lastAF := 0#32
    lastBF := 0#32
    lastAL := 0#32
    lastBL := 0#32 }

/-- s with these events still to happen. -/
def State.withPending (s : State) (es : List Event) : State := { s with pending := es }

/-- x with bit n replaced by b. -/
def setBit (x : BitVec 16) (n : Nat) (b : Bool) : BitVec 16 :=
  if b then x ||| (1#16 <<< n) else x &&& ~~~(1#16 <<< n)

/-- The output of detector n for the input raw: `raw ∧ ¬EDGE_LAST[n]` (rule R160). -/
def State.edgeOutput (s : State) (n : Nat) (raw : Bool) : Bool := raw && !s.edgeLast.getLsbD n

/-- EdgeObserve of rule R160: EDGE_LAST[n] takes the input, RES_EDGE[n] the output. -/
def State.edgeObserve (s : State) (n : Nat) (raw : Bool) : State :=
  { s with
    edgeLast := setBit s.edgeLast n raw
    resEdge := setBit s.resEdge n (s.edgeOutput n raw) }

/-- CFG_ID (rule R47): bits 7:0 NEDGE, bits 15:8 the interface version 1, bits 63:16 zero. -/
def configIdWord (c : Config) : Word := 0#48 ++ 1#8 ++ BitVec.ofNat 8 c.nedge

/-- CFG_SPEEDS (rule R52): HOLD, SLOW, FAST and BOOST in bytes 3 to 0, bits 63:32 zero. -/
def configSpeedsWord (c : Config) : Word := 0#32 ++ c.hold ++ c.slow ++ c.fast ++ c.boost

/-- The value a register reads as (rule R62; its own rule in 10_state.md). CMD reads 0 (rule R24). -/
def State.readReg (s : State) : RegName → Word
  | .cmd => 0#64
  | .status => s.status.toWord
  | .argA => s.argA.signExtend 64
  | .argB => s.argB.signExtend 64
  | .argPos => s.argPos
  | .argIn => s.argIn.setWidth 64
  | .resF => s.resF
  | .resL => s.resL
  | .resTgt => s.resTgt
  | .resSpd => s.resSpd.setWidth 64
  | .resEdge => s.resEdge.setWidth 64
  | .edgeLast => s.edgeLast.setWidth 64
  | .lastAF => s.lastAF.signExtend 64
  | .lastBF => s.lastBF.signExtend 64
  | .lastAL => s.lastAL.signExtend 64
  | .lastBL => s.lastBL.signExtend 64
  | .cfgId => configIdWord s.cfg
  | .cfgTpr => BitVec.ofNat 64 s.cfg.tpr
  | .cfgWdF => s.cfg.wdF
  | .cfgWdL => s.cfg.wdL
  | .cfgOffF => s.cfg.offF
  | .cfgOffL => s.cfg.offL
  | .cfgLmin => s.cfg.lmin
  | .cfgLmax => s.cfg.lmax
  | .cfgBzone => s.cfg.startBoost
  | .cfgSzone => s.cfg.snapZone
  | .cfgEps => s.cfg.eps
  | .cfgSpeeds => configSpeedsWord s.cfg

/-- Byte k of a register's value as a byte-numbering bus sees it, little-endian: bits `8k+7:8k` (rule R64). -/
def byteOf (v : Word) (k : Nat) : Byte := v.extractLsb' (8 * k) 8

end Sys2Proof.Machine
end

