-- ==== Sys2Proof/Machine/Axis.lean ====
section
/-! DEFINITION. The AxisTransform (40_axis_transform.md): the transform, AxisStep, and the commands AXS and AXS2. -/

namespace Sys2Proof.Machine

/-- The wheel diameter WD_i of instance i (rule R49). -/
def wheelDiameter (c : Config) : AxisInst → F64
  | .forward => c.wdF
  | .lateral => c.wdL

/-- `ipt_i = fdiv(fmul(PI64, WD_i), f64(TPR))` (rule R102). -/
def inchesPerTick (c : Config) (i : AxisInst) : F64 :=
  F64.div (F64.mul pi64 (wheelDiameter c i)) (F64.ofInt c.tpr)

/-- A tick delta scaled by inchesPerTick (rule R103, step 3). -/
def scaledDelta (c : Config) (i : AxisInst) (delta : Int) : F64 :=
  F64.mul (F64.ofInt delta) (inchesPerTick c i)

/-- The projection of the two scaled deltas: the sum for forward, the difference for lateral, over the square root
of 2 (rule R105). -/
def project (i : AxisInst) (dA dB : F64) : F64 :=
  match i with
  | .forward => F64.div (F64.add dA dB) sqrt2
  | .lateral => F64.div (F64.sub dA dB) sqrt2

/-- The incremental distance of instance i for the given tick deltas (rule R103). -/
def axisDistance (c : Config) (i : AxisInst) (deltaA deltaB : Int) : F64 :=
  project i (scaledDelta c i deltaA) (scaledDelta c i deltaB)

/-- AxisStep of rule R103: `RES_i`, `UNAV_i` and, for an available sample, `LAST_Ai` and `LAST_Bi`. A failed read of
either channel reports "unavailable" and keeps `LAST_Ai` and `LAST_Bi` (rule R104). -/
def State.axisStep (s : State) (i : AxisInst) : State :=
  match s.sampleValid, i with
  | true, .forward =>
    { s with
      lastAF := s.argA
      lastBF := s.argB
      resF := axisDistance s.cfg .forward (s.deltaA .forward) (s.deltaB .forward)
      status := { s.status with unavF := false } }
  | true, .lateral =>
    { s with
      lastAL := s.argA
      lastBL := s.argB
      resL := axisDistance s.cfg .lateral (s.deltaA .lateral) (s.deltaB .lateral)
      status := { s.status with unavL := false } }
  | false, .forward => { s with resF := qnan, status := { s.status with unavF := true } }
  | false, .lateral => { s with resL := qnan, status := { s.status with unavL := true } }

/-- AXS (rule R103). -/
def execAxs (ax : AxisInst) (s : State) : Host.Outcome State Fault Refusal := .next (s.axisStep ax)

/-- AXS2 (rule R112): both instances from one shared sample. -/
def execAxs2 (s : State) : Host.Outcome State Fault Refusal :=
  .next ((s.axisStep .forward).axisStep .lateral)

end Sys2Proof.Machine
end

