-- ==== Sys2Proof/Machine/Lever.lean ====
section
/-! DEFINITION. The LeverSequencer (41_lever_sequencer.md): the speed-zone governor, the lever step, and the command
LVS. -/

namespace Sys2Proof.Machine

/-- The cruise and retract speed the auxiliary toggle selects (rules R131, R132). -/
def cruiseSpeed (c : Config) (aux : Bool) : BitVec 8 := if aux then c.fast else c.slow

/-- ExtendSpeed of rule R131: launch phase, snap phase, cruise phase. -/
def extendSpeed (c : Config) (pos : F64) (aux : Bool) : BitVec 8 :=
  if F64.le pos c.startBoost then c.boost
  else if F64.ge pos (F64.sub c.lmax c.snapZone) then c.boost
  else cruiseSpeed c aux

/-- RetractSpeed of rule R132. -/
def retractSpeed (c : Config) (aux : Bool) : BitVec 8 := cruiseSpeed c aux

/-- The position ends an extend stroke (rule R134). -/
def extendDone (c : Config) (pos : F64) : Bool := F64.ge pos (F64.sub c.lmax c.eps)

/-- The position ends a retract stroke (rule R134). -/
def retractDone (c : Config) (pos : F64) : Bool := F64.le pos (F64.add c.lmin c.eps)

/-- The state after the trigger transition (rule R135): a trigger edge matters only in Idle. -/
def afterTrigger (st : LeverState) (trig : Bool) : LeverState :=
  match st with
  | .idle => if trig then .extending else .idle
  | .extending => .extending
  | .retracting => .retracting

/-- The state after the position transition (rule R134). -/
def afterPosition (c : Config) (st : LeverState) (pos : F64) : LeverState :=
  match st with
  | .idle => .idle
  | .extending => if extendDone c pos then .retracting else .extending
  | .retracting => if retractDone c pos then .idle else .retracting

/-- The command's target in a state (rules R136, R139, R144). -/
def commandTarget (c : Config) (st : LeverState) (pos : F64) : F64 :=
  match st with
  | .idle => pos
  | .extending => c.lmax
  | .retracting => c.lmin

/-- The command's speed in a state (rules R131, R132, R136). -/
def commandSpeed (c : Config) (st : LeverState) (pos : F64) (aux : Bool) : BitVec 8 :=
  match st with
  | .idle => c.hold
  | .extending => extendSpeed c pos aux
  | .retracting => retractSpeed c aux

/-- The trigger of a lever step: an edge of detector 0 on T0 or of detector 1 on T1 (rule R135). -/
def State.trigger (s : State) : Bool := s.edgeOutput 0 s.t0 || s.edgeOutput 1 s.t1

/-- The two trigger detectors observe, every lever step and in every state (rule R138). -/
def State.observeTriggers (s : State) : State := (s.edgeObserve 0 s.t0).edgeObserve 1 s.t1

/-- The command and the flags of a lever step whose trigger is `trig`: the command is that of the state after the
trigger transition, and the position transition changes only the state (rules R137, R138). -/
def State.leverCommand (s : State) (trig : Bool) : State :=
  { s with
    resTgt := commandTarget s.cfg (afterTrigger s.status.lever trig) s.argPos
    resSpd := commandSpeed s.cfg (afterTrigger s.status.lever trig) s.argPos s.aux
    status :=
      { s.status with
        lever := afterPosition s.cfg (afterTrigger s.status.lever trig) s.argPos
        cmdv := true
        tacc := trig && decide (s.status.lever = .idle)
        tign := trig && decide (s.status.lever ≠ .idle) } }

/-- LeverStep of rule R137. -/
def State.leverStep (s : State) : State := s.observeTriggers.leverCommand s.trigger

/-- LVS (rule R137). -/
def execLvs (s : State) : Host.Outcome State Fault Refusal := .next s.leverStep

end Sys2Proof.Machine
end

