-- ==== Sys2Proof/Machine/Control.lean ====
section
/-! DEFINITION. The control commands NOP, CYC and RST (43_control.md). -/

namespace Sys2Proof.Machine

/-- NOP (rule R170). -/
def execNop (s : State) : Host.Outcome State Fault Refusal := .next s

/-- CYC (rule R171): AxisStep of both instances, then LeverStep, as one command. -/
def execCyc (s : State) : Host.Outcome State Fault Refusal :=
  .next ((s.axisStep .forward).axisStep .lateral).leverStep

/-- RST (rule R172): ResetCore. -/
def execRst (s : State) : Host.Outcome State Fault Refusal := .next s.resetCore

end Sys2Proof.Machine
end

