-- ==== Sys2Proof/Machine/Edge.lean ====
section
/-! DEFINITION. The command EDG (42_edge_detector.md). -/

namespace Sys2Proof.Machine

/-- EDG (rule R162). An index below 2 or not below NEDGE is an illegal command, ECODE 3, found before anything is
observed (rules R80, R182). -/
def execEdg (idx : BitVec 4) (r : Bool) (s : State) : Host.Outcome State Fault Refusal :=
  if idx.toNat < 2 ∨ s.cfg.nedge ≤ idx.toNat then .next (s.raise .illIdx)
  else .next (s.edgeObserve idx.toNat r)

end Sys2Proof.Machine
end

