-- ==== Sys2Proof/Machine/Dispatch.lean ====
section
/-! DEFINITION. One arm per command, each one direct call of its meaning. -/

namespace Sys2Proof.Machine

def exec (i : Instr) (s : State) : Host.Outcome State Fault Refusal :=
  match i with
  | .nop => Sys2Proof.Machine.execNop s
  | .axs ax => Sys2Proof.Machine.execAxs ax s
  | .axs2 => Sys2Proof.Machine.execAxs2 s
  | .edg idx r => Sys2Proof.Machine.execEdg idx r s
  | .lvs => Sys2Proof.Machine.execLvs s
  | .cyc => Sys2Proof.Machine.execCyc s
  | .rst => Sys2Proof.Machine.execRst s

end Sys2Proof.Machine
end

