-- ==== Sys2Proof/Machine/Legal.lean ====
section
/-! DEFINITION. Which configurations are legal (rule R8, with the ranges of rule R7's table), and where the
window lies on the platform's bus (rule R60). -/

namespace Sys2Proof

/-- A speed lies in 0..127 (rule R8). -/
def Config.speedLegal (v : BitVec 8) : Bool := decide (v.toNat ≤ 127)

/-- A wheel diameter is finite and greater than 0 (rule R8). -/
def Config.diameterLegal (d : F64) : Bool := F64.isFinite d && F64.lt 0x0000000000000000#64 d

/-- TPR and the two wheel diameters (rule R8). TPR's upper bound is its type in rule R7. -/
def Config.rotatorLegal (c : Config) : Bool :=
  decide (1 ≤ c.tpr) && (!decide (2 ^ 31 ≤ c.tpr) && (Config.diameterLegal c.wdF && Config.diameterLegal c.wdL))

/-- The lever's constants are finite (rule R8). -/
def Config.leverFinite (c : Config) : Bool :=
  F64.isFinite c.lmin && (F64.isFinite c.lmax && (F64.isFinite c.startBoost &&
    (F64.isFinite c.snapZone && F64.isFinite c.eps)))

/-- `EPS >= 0` and `LMIN < LMAX` (rule R8). -/
def Config.leverOrdered (c : Config) : Bool :=
  F64.ge c.eps 0x0000000000000000#64 && F64.lt c.lmin c.lmax

/-- The four speeds (rule R8). -/
def Config.speedsLegal (c : Config) : Bool :=
  Config.speedLegal c.boost && (Config.speedLegal c.fast && (Config.speedLegal c.slow && Config.speedLegal c.hold))

/-- `2 <= NEDGE <= 16` (rule R8). -/
def Config.detectorsLegal (c : Config) : Bool := decide (2 ≤ c.nedge) && decide (c.nedge ≤ 16)

/-- Legality, rule R8. Overlapping zones are legal. -/
def Config.legal (c : Config) : Bool :=
  c.rotatorLegal && (c.leverFinite && (c.leverOrdered && (c.speedsLegal && c.detectorsLegal)))

/-- The offset `addr - BASE` of a bus address inside the window BASE..BASE + 0xFF. Nothing outside the window is
addressable through the core (rule R60), so such an address gives none and the access never reaches it. -/
def Config.windowOffset (c : Config) (addr : Nat) : Option (BitVec 8) :=
  if c.base ≤ addr ∧ addr - c.base < 256 then some (BitVec.ofNat 8 (addr - c.base)) else none

/-- The bus address of an offset of the window (rules R60, R61). -/
def Config.busAddress (c : Config) (off : BitVec 8) : Nat := c.base + off.toNat

end Sys2Proof
end

