-- ==== Sys2Proof/Machine/Bus.lean ====
section
/-! DEFINITION. The register window as the bus sees it (20_memory.md): which register stands at an offset, the form
check, reads and writes, and the execution of a command word written to CMD (rule R80). -/

namespace Sys2Proof.Machine

/-- The offset of a register (rule R21). -/
def RegName.offset : RegName → BitVec 8
  | .cmd => 0x00#8
  | .status => 0x08#8
  | .argA => 0x10#8
  | .argB => 0x18#8
  | .argPos => 0x20#8
  | .argIn => 0x28#8
  | .resF => 0x30#8
  | .resL => 0x38#8
  | .resTgt => 0x40#8
  | .resSpd => 0x48#8
  | .resEdge => 0x50#8
  | .edgeLast => 0x58#8
  | .lastAF => 0x60#8
  | .lastBF => 0x68#8
  | .lastAL => 0x70#8
  | .lastBL => 0x78#8
  | .cfgId => 0x80#8
  | .cfgTpr => 0x88#8
  | .cfgWdF => 0x90#8
  | .cfgWdL => 0x98#8
  | .cfgOffF => 0xA0#8
  | .cfgOffL => 0xA8#8
  | .cfgLmin => 0xB0#8
  | .cfgLmax => 0xB8#8
  | .cfgBzone => 0xC0#8
  | .cfgSzone => 0xC8#8
  | .cfgEps => 0xD0#8
  | .cfgSpeeds => 0xD8#8

/-- The registers, in the order of rule R21. -/
def RegName.all : List RegName :=
  [.cmd, .status, .argA, .argB, .argPos, .argIn, .resF, .resL, .resTgt, .resSpd, .resEdge, .edgeLast,
    .lastAF, .lastBF, .lastAL, .lastBL, .cfgId, .cfgTpr, .cfgWdF, .cfgWdL, .cfgOffF, .cfgOffL,
    .cfgLmin, .cfgLmax, .cfgBzone, .cfgSzone, .cfgEps, .cfgSpeeds]

/-- The register at an offset; none at the reserved offsets 0xE0 to 0xF8 (rule R45) and at misaligned ones. -/
def RegName.at (off : BitVec 8) : Option RegName := RegName.all.find? fun r => r.offset == off

/-- Rule R61: exactly 8 bytes, at an offset that is a multiple of 8 in 0x00..0xF8. -/
def Access.wellFormed (a : Access) : Bool := a.width == 8 && a.off.toNat % 8 == 0

/-- The answer to an access: a read returns a value, a write answers nothing but its completion (assumption log 3). -/
def State.answer (s : State) (a : Access) (v : Word) : State :=
  match a.op with
  | .read => { s with replies := ⟨a.agent, v⟩ :: s.replies }
  | .write _ => s

/-- An erroneous access (rules R181, R183): the error is recorded, a write stores nothing, a read returns 0. -/
def State.accessError (s : State) (a : Access) (e : ErrorCode) : State := (s.raise e).answer a 0#64

/-- The error of a word that decodes to no command (rules R87, R180). -/
def errorOf : DecodeError → ErrorCode
  | .unknownOp => .illOp
  | .reservedBits => .illRsv

/-- A write of v to CMD (rules R24, R80): v is decoded, and either its command runs to completion or the illegal
command is recorded and nothing else changes. v is not stored. -/
def State.command (s : State) (v : Word) : Host.Outcome State Fault Refusal :=
  match decodeCommand v with
  | .ok i => exec i s
  | .error e => .next (s.raise (errorOf e))

/-- A well-formed write of v to a register (rule R63): the operand registers store what their rules say (R31 to
R34), CMD executes, every other register is read-only, ECODE 5. -/
def State.writeReg (s : State) (r : RegName) (v : Word) : Host.Outcome State Fault Refusal :=
  match r with
  | .cmd => s.command v
  | .argA => .next { s with argA := v.setWidth 32 }
  | .argB => .next { s with argB := v.setWidth 32 }
  | .argPos => .next { s with argPos := v }
  | .argIn => .next { s with argIn := v.setWidth 5 }
  | .status | .resF | .resL | .resTgt | .resSpd | .resEdge | .edgeLast
  | .lastAF | .lastBF | .lastAL | .lastBL
  | .cfgId | .cfgTpr | .cfgWdF | .cfgWdL | .cfgOffF | .cfgOffL
  | .cfgLmin | .cfgLmax | .cfgBzone | .cfgSzone | .cfgEps | .cfgSpeeds => .next (s.raise .accRo)

/-- One bus access, with the checks in the order of rule R185: form, reserved offset, read-only register, then the
decode of a word written to CMD. The agent makes no difference (rule R69). -/
def State.perform (s : State) (a : Access) : Host.Outcome State Fault Refusal :=
  if a.wellFormed then
    match RegName.at a.off with
    | none => .next (s.accessError a .accRsv)
    | some r =>
      match a.op with
      | .read => .next (s.answer a (s.readReg r))
      | .write v => s.writeReg r v
  else .next (s.accessError a .accForm)

/-- One event: an access, or the reset input (rule R201). -/
def State.happen (s : State) : Event → Host.Outcome State Fault Refusal
  | .access a => s.perform a
  | .resetInput => .next s.resetCore

/-- The next event of the total order of rule R67, or nothing when the agents make no further access: the core
itself initiates nothing (rule R60) and waits (rule R214). Assumption log 2. -/
def State.advance (s : State) : Host.Outcome State Fault Refusal :=
  match s.pending with
  | [] => .next s
  | e :: rest => (s.withPending rest).happen e

/-- One step of the core: an illegal configuration has no machine (rule R8, assumption log 7); in a legal one the next
event happens. -/
def State.proceed (s : State) : Host.Outcome State Fault Refusal :=
  match Config.legal s.cfg with
  | true => s.advance
  | false => .refused .illegalConfiguration

/-- The write of the command word v to CMD by the host. -/
def Event.command (v : Word) : Event := .access ⟨.host, RegName.cmd.offset, 8, .write v⟩

end Sys2Proof.Machine
end

