-- ==== Sys2Proof/Machine/Step.lean ====
section
/-! DEFINITION. The step, and the placing of a command word so that the next step runs it. -/

namespace Sys2Proof.Machine

/-- One step: the next event happens, in a core whose configuration is legal (`State.proceed`). -/
def step (s : State) : Host.Outcome State Fault Refusal := s.proceed

/-- s with the host's write of the nbits-bit command word w to CMD placed before every other event, so that the
next step runs it (assumption log 1). -/
def State.withFetchWord (s : State) (nbits w : Nat) : State :=
  s.withPending (Event.command (BitVec.ofNat 64 (w % 2 ^ nbits)) :: s.pending)

end Sys2Proof.Machine
end

