-- ==== Sys2Proof/Machine/Asm.lean ====
section
/-! DEFINITION. Host programs (rules R89 and R90, 30_encoding.md): one line is one access or a pseudo-instruction, and
a program is the list of the events it puts before the core. The text of a line (its spelling and its comments) is not
modelled; a line is its meaning. -/

namespace Sys2Proof.Machine

/-- A line of a host program. -/
inductive AsmLine where
  /-- `wr NAME, value` (rule R89). -/
  | wr (r : RegName) (v : Word)
  /-- `rd NAME` (rule R89). -/
  | rd (r : RegName)
  /-- a command mnemonic, standing for `wr CMD, <word>` (rule R89). -/
  | command (i : Instr)
  /-- `ticks a, b` (rule R90). -/
  | ticks (a b : Word)
  /-- `inputs va, vb, t0, t1, aux` (rule R90). -/
  | inputs (va vb t0 t1 aux : Bool)
  /-- `pos p` (rule R90). -/
  | pos (p : F64)
  /-- `cycle a, b, va, vb, t0, t1, aux, p` (rule R90). -/
  | cycle (a b : Word) (va vb t0 t1 aux : Bool) (p : F64)
  /-- `result` (rule R90). -/
  | result
deriving DecidableEq, Repr

/-- `MemWrite(BASE + off(NAME), 8, v)` by the host (rules R13, R89). -/
def Event.write (r : RegName) (v : Word) : Event := .access ⟨.host, r.offset, 8, .write v⟩

/-- `MemRead(BASE + off(NAME), 8)` by the host (rules R13, R89). -/
def Event.read (r : RegName) : Event := .access ⟨.host, r.offset, 8, .read⟩

/-- The word `inputs` writes to ARG_IN: `va | (vb << 1) | (t0 << 2) | (t1 << 3) | (aux << 4)` (rule R90). -/
def inputsWord (va vb t0 t1 aux : Bool) : Word :=
  0#59 ++ BitVec.ofBool aux ++ BitVec.ofBool t1 ++ BitVec.ofBool t0 ++ BitVec.ofBool vb ++ BitVec.ofBool va

/-- The accesses a line stands for, in order (rules R89, R90). -/
def AsmLine.expand : AsmLine → List Event
  | .wr r v => [Event.write r v]
  | .rd r => [Event.read r]
  | .command i => [Event.write .cmd (encode i)]
  | .ticks a b => [Event.write .argA a, Event.write .argB b]
  | .inputs va vb t0 t1 aux => [Event.write .argIn (inputsWord va vb t0 t1 aux)]
  | .pos p => [Event.write .argPos p]
  | .cycle a b va vb t0 t1 aux p =>
    [Event.write .argA a, Event.write .argB b, Event.write .argIn (inputsWord va vb t0 t1 aux),
      Event.write .argPos p, Event.write .cmd (encode .cyc)]
  | .result =>
    [Event.read .resF, Event.read .resL, Event.read .resTgt, Event.read .resSpd, Event.read .status]

/-- The accesses of a program, in order. -/
def assemble : List AsmLine → List Event
  | [] => []
  | l :: rest => l.expand ++ assemble rest

/-- s with the accesses of a program placed before every other event. -/
def State.withProgram (s : State) (p : List AsmLine) : State := s.withPending (assemble p ++ s.pending)

/-- The boot duty of rule R203 as a program: read the configuration back, prime both AxisTransforms with the current
counts (the results of this sample are discarded), and establish the lever's inputs before the first lever step. -/
def bootProgram (a b : Word) (t0 t1 aux : Bool) (p : F64) : List AsmLine :=
  [.rd .cfgId, .rd .cfgTpr, .rd .cfgWdF, .rd .cfgWdL, .rd .cfgOffF, .rd .cfgOffL, .rd .cfgLmin, .rd .cfgLmax,
    .rd .cfgBzone, .rd .cfgSzone, .rd .cfgEps, .rd .cfgSpeeds,
    .ticks a b, .inputs true true t0 t1 aux, .command .axs2, .pos p]

end Sys2Proof.Machine
end

