-- ==== Sys2Proof/Safety.lean ====
section
/-! DEFINITION. What counts as a sound state and a disciplined run of the DIAG core, in the terms the statements use:
the invariant of the registers, the errors as the spec records them, the register map as rule R21 tabulates it, the duties
of the host and the reporter (70_reset_and_hazards.md section 3), and runs of several events. -/

namespace Sys2Proof.Machine

/-- No detector that does not exist has a bit set (rules R39, R40). -/
abbrev State.DetectorsSound (s : State) : Prop :=
  s.edgeLast >>> s.cfg.nedge = 0#16 ∧ s.resEdge >>> s.cfg.nedge = 0#16

/-- A detector that emitted an edge at its most recent observation holds a true sample (rule R160). -/
abbrev State.EdgesSound (s : State) : Prop := s.resEdge &&& ~~~s.edgeLast = 0#16

/-- An instance that reports unavailable holds QNAN (rules R26, R35, R36). -/
abbrev State.DistancesSound (s : State) : Prop :=
  (s.status.unavF = true → s.resF = qnan) ∧ (s.status.unavL = true → s.resL = qnan)

/-- While there is no actuator command, RES_TGT and RES_SPD hold their reset values and the lever has not left Idle
(rules R28, R202). -/
abbrev State.NoCommandYet (s : State) : Prop :=
  s.status.cmdv = false →
    s.resTgt = qnan ∧ s.resSpd = 0#8 ∧ s.status.lever = .idle ∧ s.status.tacc = false ∧ s.status.tign = false

/-- TACC and TIGN exclude each other, and a step that accepted a trigger left Idle (rule R29). -/
abbrev State.TriggerFlagsSound (s : State) : Prop :=
  ¬(s.status.tacc = true ∧ s.status.tign = true) ∧ (s.status.tacc = true → s.status.lever ≠ .idle)

/-- The lever's last command fits its state: it moves toward LMAX while Extending, and to LMAX or LMIN while
Retracting (rules R138, R144); its speed lies in 0..127 (rule R38). -/
abbrev State.CommandSound (s : State) : Prop :=
  (s.status.lever = .extending → s.resTgt = s.cfg.lmax) ∧
  (s.status.lever = .retracting → s.resTgt = s.cfg.lmax ∨ s.resTgt = s.cfg.lmin) ∧
  s.resSpd.toNat ≤ 127

/-- ECODE is one of the codes of rule R180, and it is 0 exactly when no sticky bit is set (rule R181). -/
abbrev State.ErrorsSound (s : State) : Prop :=
  s.status.ecode.toNat ≤ 6 ∧ (s.status.ecode = 0#4 ↔ s.status.ill = false ∧ s.status.accerr = false)

/-- The invariant of the registers that every step keeps. -/
abbrev State.Inv (s : State) : Prop :=
  s.DetectorsSound ∧ s.EdgesSound ∧ s.DistancesSound ∧ s.NoCommandYet ∧ s.TriggerFlagsSound ∧
    s.CommandSound ∧ s.ErrorsSound

/-- The registers and the configuration, without what is still to happen and what reads have returned. -/
def State.window (s : State) : State := { s with pending := [], replies := [] }

/-- What the host's reads have returned. -/
def State.hostReplies (s : State) : List Reply := s.replies.filter fun r => r.agent == .host

/-- The actuator command the host may forward: none while CMDV is 0 (rules R139, R211). -/
def State.actuatorCommand (s : State) : Option (F64 × BitVec 8) :=
  if s.status.cmdv then some (s.resTgt, s.resSpd) else none

/-- The distance of an instance: none while it reports unavailable (rules R26, R206). -/
def State.distance (s : State) : AxisInst → Option F64
  | .forward => if s.status.unavF then none else some s.resF
  | .lateral => if s.status.unavL then none else some s.resL

/-- The result register of an instance (rules R35, R36). -/
def State.res (s : State) : AxisInst → F64
  | .forward => s.resF
  | .lateral => s.resL

/-- A rising edge on a lever trigger as the lever's detectors will see it (rules R135, R160). -/
def State.triggerEdge (s : State) : Bool :=
  (s.argIn.getLsbD 2 && !s.edgeLast.getLsbD 0) || (s.argIn.getLsbD 3 && !s.edgeLast.getLsbD 1)

/-- t is s after a lever step with this command, state and trigger flags: the detectors 0 and 1 have observed T0 and T1,
CMDV is 1, and nothing else changed (rule R137). -/
def leverStepResult (s t : State) (tgt : F64) (spd : BitVec 8) (st : LeverState) (acc ign : Bool) : Prop :=
  t =
    { s with
      edgeLast := t.edgeLast
      resEdge := t.resEdge
      resTgt := tgt
      resSpd := spd
      status := { s.status with lever := st, cmdv := true, tacc := acc, tign := ign } } ∧
  (∀ n : Nat, t.edgeLast.getLsbD n =
    if n = 0 then s.argIn.getLsbD 2 else if n = 1 then s.argIn.getLsbD 3 else s.edgeLast.getLsbD n) ∧
  (∀ n : Nat, t.resEdge.getLsbD n =
    if n = 0 then s.argIn.getLsbD 2 && !s.edgeLast.getLsbD 0
    else if n = 1 then s.argIn.getLsbD 3 && !s.edgeLast.getLsbD 1 else s.resEdge.getLsbD n)

/-- s with an illegal command recorded under its code (rule R181). -/
def illegalCommandRecorded (s : State) (code : BitVec 4) : State :=
  { s with
    status :=
      { s.status with ill := true, ecode := if s.status.ecode = 0#4 then code else s.status.ecode } }

/-- s with an access error recorded under its code; a read returned 0 (rules R181, R183). -/
def accessErrorRecorded (s : State) (a : Access) (code : BitVec 4) : State :=
  { s with
    status :=
      { s.status with accerr := true, ecode := if s.status.ecode = 0#4 then code else s.status.ecode }
    replies := if a.op = .read then ⟨a.agent, 0#64⟩ :: s.replies else s.replies }

/-- One bit of a word, at its place. -/
def bitAt (n : Nat) (b : Bool) : Nat := if b then 2 ^ n else 0

/-- STATUS as rule R25 tabulates its fields. -/
def statusWord (t : Status) : Word :=
  BitVec.ofNat 64
    (bitAt 0 t.unavF + bitAt 1 t.unavL + bitAt 2 (decide (t.lever ≠ .idle)) + bitAt 3 (decide (t.lever = .retracting))
      + bitAt 4 t.cmdv + bitAt 5 t.tacc + bitAt 6 t.tign + bitAt 7 t.ill + bitAt 8 t.accerr
      + t.ecode.toNat * 2 ^ 12)

/-- The register map of rule R21: each offset with the value its register reads as. -/
def registerMap (s : State) : List (Nat × Word) :=
  [(0x00, 0#64), (0x08, statusWord s.status),
    (0x10, BitVec.ofInt 64 s.argA.toInt), (0x18, BitVec.ofInt 64 s.argB.toInt),
    (0x20, s.argPos), (0x28, BitVec.ofNat 64 s.argIn.toNat),
    (0x30, s.resF), (0x38, s.resL), (0x40, s.resTgt), (0x48, BitVec.ofNat 64 s.resSpd.toNat),
    (0x50, BitVec.ofNat 64 s.resEdge.toNat), (0x58, BitVec.ofNat 64 s.edgeLast.toNat),
    (0x60, BitVec.ofInt 64 s.lastAF.toInt), (0x68, BitVec.ofInt 64 s.lastBF.toInt),
    (0x70, BitVec.ofInt 64 s.lastAL.toInt), (0x78, BitVec.ofInt 64 s.lastBL.toInt),
    (0x80, BitVec.ofNat 64 (0x100 + s.cfg.nedge % 256)), (0x88, BitVec.ofNat 64 s.cfg.tpr),
    (0x90, s.cfg.wdF), (0x98, s.cfg.wdL), (0xA0, s.cfg.offF), (0xA8, s.cfg.offL),
    (0xB0, s.cfg.lmin), (0xB8, s.cfg.lmax), (0xC0, s.cfg.startBoost), (0xC8, s.cfg.snapZone), (0xD0, s.cfg.eps),
    (0xD8, BitVec.ofNat 64 (s.cfg.boost.toNat + s.cfg.fast.toNat * 2 ^ 8 + s.cfg.slow.toNat * 2 ^ 16
      + s.cfg.hold.toNat * 2 ^ 24))]

/-- The command an event makes the core execute: a well-formed write to CMD of a word that decodes (rule R63). -/
def Event.commandOf : Event → Option Instr
  | .access ⟨_, off, width, .write v⟩ =>
    if width = 8 ∧ off = 0x00#8 then
      match decodeCommand v with
      | .ok i => some i
      | .error _ => none
    else none
  | .access ⟨_, _, _, .read⟩ => none
  | .resetInput => none

/-- The event resets the core: the reset input, or RST (rule R201). -/
def Event.isReset (e : Event) : Bool := e == .resetInput || e.commandOf == some .rst

/-- The event is a lever step: LVS or CYC. -/
def Event.isLeverStep (e : Event) : Bool := e.commandOf == some .lvs || e.commandOf == some .cyc

/-- The event is a well-formed write to the register at `off`. -/
def Event.writesTo (off : BitVec 8) : Event → Bool
  | .access ⟨_, o, width, .write _⟩ => width == 8 && o == off
  | .access ⟨_, _, _, .read⟩ => false
  | .resetInput => false

/-- The event writes ARG_A, ARG_B or ARG_IN, the operands of an encoder sample. -/
def Event.writesSample (e : Event) : Bool := e.writesTo 0x10#8 || e.writesTo 0x18#8 || e.writesTo 0x28#8

/-- The next event. -/
def State.nextEvent (s : State) : Option Event := s.pending.head?

/-- The event is an access by the reporter. -/
def Event.byReporter : Event → Bool
  | .access a => a.agent == .reporter
  | .resetInput => false

/-- A read that raises no error: well-formed, and not of a reserved offset. -/
def Event.isCleanRead : Event → Bool
  | .access ⟨_, off, width, .read⟩ => width == 8 && off.toNat % 8 == 0 && decide (off.toNat < 0xE0)
  | .access ⟨_, _, _, .write _⟩ => false
  | .resetInput => false

/-- The reporter's duty (rule R209): it only reads. A read that raises an error would write STATUS, so its reads are
well-formed and of registers that exist. -/
def reporterOnlyReads (es : List Event) : Bool := es.all fun e => !e.byReporter || e.isCleanRead

/-- The events without the reporter's. -/
def withoutReporter (es : List Event) : List Event := es.filter fun e => !e.byReporter

/-- Single writer (rule R210): only the host writes the window. -/
def singleWriter (es : List Event) : Bool :=
  es.all fun
    | .access ⟨agent, _, _, .write _⟩ => agent == .host
    | .access ⟨_, _, _, .read⟩ => true
    | .resetInput => true

/-- The shared-sample discipline of rule R205, read from an event list: AXS2 and CYC share one sample by themselves, and
after an AXS of one instance (`open`) comes an AXS of the other, with no write to ARG_A, ARG_B or ARG_IN, no reset and no
other sample between them. -/
def sharedSample : Option AxisInst → List Event → Bool
  | none, [] => true
  | some _, [] => false
  | none, e :: es =>
    match e.commandOf with
    | some (.axs i) => sharedSample (some i) es
    | _ => sharedSample none es
  | some i, e :: es =>
    match e.commandOf with
    | some (.axs j) => decide (i ≠ j) && sharedSample none es
    | some .axs2 => false
    | some .cyc => false
    | some .rst => false
    | _ => !e.writesSample && (!e.isReset && sharedSample (some i) es)

/-- One lever step per cycle (rule R212), for the events of one cycle. -/
def oneLeverStep (cycle : List Event) : Bool := decide ((cycle.filter Event.isLeverStep).length ≤ 1)

/-- The calibration invariant of rule R207, a premise about the robot: the transition band exceeds the largest position
change of one control cycle at BOOST. -/
def bandExceedsStep (c : Config) (largestChange : F64) : Bool := F64.lt largestChange c.eps

/-- Every position the events write satisfies `ok`, and no event resets the core. -/
def positionsAll (ok : F64 → Bool) (es : List Event) : Bool :=
  es.all fun e =>
    !e.isReset &&
      match e with
      | .access ⟨_, off, width, .write v⟩ => !(width == 8 && off == 0x20#8) || ok v
      | .access ⟨_, _, _, .read⟩ => true
      | .resetInput => true

/-- The outputs rule R161 gives for a sequence of samples after the stored sample `prev`. -/
def risingEdges : Bool → List Bool → List Bool
  | _, [] => []
  | prev, r :: rs => (r && !prev) :: risingEdges r rs

/-- The accesses of a host that has detector idx observe each sample in turn and reads RES_EDGE after each. -/
def edgeProgram (idx : BitVec 4) : List Bool → List Event
  | [] => []
  | r :: rs => Event.write .cmd (encode (.edg idx r)) :: Event.read .resEdge :: edgeProgram idx rs

/-- Every agent's name replaced by the host's. -/
def Event.untagged : Event → Event
  | .access a => .access { a with agent := .host }
  | .resetInput => .resetInput

/-- s with every agent's name replaced by the host's. -/
def State.untagged (s : State) : State :=
  { s with
    pending := s.pending.map Event.untagged
    replies := s.replies.map fun r => { r with agent := .host } }

/-- The event is a sample of instance i: an AXS of it, AXS2 or CYC. -/
def Event.samples (i : AxisInst) (e : Event) : Bool :=
  e.commandOf == some (.axs i) || e.commandOf == some .axs2 || e.commandOf == some .cyc

/-- The event is the host's well-formed read of the register at `off`. -/
def Event.hostReads (off : BitVec 8) : Event → Bool
  | .access ⟨agent, o, width, .read⟩ => agent == .host && width == 8 && o == off
  | .access ⟨_, _, _, .write _⟩ => false
  | .resetInput => false

/-- The offset of an instance's result register (rules R35, R36). -/
def resultOffset : AxisInst → BitVec 8
  | .forward => 0x30#8
  | .lateral => 0x38#8

/-- The place of an instance's UNAV flag in STATUS (rule R25). -/
def unavBit : AxisInst → Nat
  | .forward => 0
  | .lateral => 1

/-- Result consumption (rule R206) for instance i, read from an event list: after each sample of i the host reads both
RES_i and STATUS, in either order, before the next sample of i, before a reset and before the list ends. The two flags say
which of the two reads the host still owes. -/
def resultsConsumed (i : AxisInst) : Bool → Bool → List Event → Bool
  | owesResult, owesStatus, [] => !owesResult && !owesStatus
  | owesResult, owesStatus, e :: es =>
    if e.samples i then !owesResult && !owesStatus && resultsConsumed i true true es
    else if e.isReset then !owesResult && !owesStatus && resultsConsumed i false false es
    else
      resultsConsumed i (owesResult && !e.hostReads (resultOffset i)) (owesStatus && !e.hostReads 0x08#8) es

/-- One sample per cycle (rule R212), read from the events of a cycle: no operand register is written after a command that
reads it. The two flags say whether an encoder sample and a lever step have been made. -/
def operandsBeforeUse : Bool → Bool → List Event → Bool
  | _, _, [] => true
  | sampled, stepped, e :: es =>
    !(sampled && e.writesSample) && !(stepped && (e.writesTo 0x20#8 || e.writesTo 0x28#8)) &&
      operandsBeforeUse (sampled || e.samples .forward || e.samples .lateral) (stepped || e.isLeverStep) es

/-- One sample per cycle (rule R212): each operand register is written at most once, and before its use. -/
def oneSample (cycle : List Event) : Bool :=
  operandsBeforeUse false false cycle &&
    [0x10#8, 0x18#8, 0x20#8, 0x28#8].all fun off => decide ((cycle.filter (Event.writesTo off)).length ≤ 1)

/-- No event resets the core. -/
def noReset (es : List Event) : Bool := es.all fun e => !e.isReset

/-- The state a step leaves; the same state where it answers none. -/
def State.stepped (s : State) : State :=
  match step s with
  | .next t => t
  | .fault _ => s
  | .refused _ => s

/-- The value the latest read returned. -/
def State.lastReply (s : State) : Option Word := s.replies.head?.map fun r => r.value

/-- The distances the core computes in instance i over n steps, one for each sample, none for an unavailable one. -/
def distancesComputed (i : AxisInst) : Nat → State → List (Option F64)
  | 0, _ => []
  | n + 1, s =>
    match s.nextEvent with
    | none => []
    | some e =>
      if e.samples i then s.stepped.distance i :: distancesComputed i n s.stepped
      else distancesComputed i n s.stepped

/-- The distances the host takes for instance i over n steps: for each sample of i the pair of a RES_i and a STATUS value it
read after it, as soon as it has both, and no distance where the UNAV bit read is 1 (rule R206). `taking` holds what the
host has read since the last sample; it is none when the host waits for nothing. -/
def distancesTaken (i : AxisInst) : Nat → Option (Option Word × Option Word) → State → List (Option F64)
  | 0, _, _ => []
  | n + 1, taking, s =>
    match s.nextEvent with
    | none => []
    | some e =>
      if e.samples i then distancesTaken i n (some (none, none)) s.stepped
      else
        match taking with
        | none => distancesTaken i n none s.stepped
        | some (result, status) =>
          match (if e.hostReads (resultOffset i) then s.stepped.lastReply else result),
              (if e.hostReads 0x08#8 then s.stepped.lastReply else status) with
          | some r, some v =>
            (if v.getLsbD (unavBit i) then none else some r) :: distancesTaken i n none s.stepped
          | some r, none => distancesTaken i n (some (some r, none)) s.stepped
          | none, some v => distancesTaken i n (some (none, some v)) s.stepped
          | none, none => distancesTaken i n (some (none, none)) s.stepped

/-- The commands the host forwards to the actuator over n steps: the actuator command after each lever step (rule R211). -/
def commandsForwarded : Nat → State → List (F64 × BitVec 8)
  | 0, _ => []
  | n + 1, s =>
    match s.nextEvent with
    | none => []
    | some e =>
      if e.isLeverStep then s.stepped.actuatorCommand.toList ++ commandsForwarded n s.stepped
      else commandsForwarded n s.stepped

/-- s without the record of access errors, the only thing that an access other than a write can change in the window. -/
def State.withoutAccessErrors (s : State) : State :=
  { s with status := { s.status with accerr := false, ecode := 0#4 } }

/-- n steps of the machine take s to t, each answering a next state. -/
def Runs : Nat → State → State → Prop
  | 0, s, t => s = t
  | n + 1, s, t => ∃ u, step s = .next u ∧ Runs n u t

end Sys2Proof.Machine
end

