-- ==== Sys2Proof/WellFormed.lean ====
section
/-! DEFINITION. Which commands are legal in a DIAG core of NEDGE detectors (rules R84, R87). -/

namespace Sys2Proof

/-- EDG is legal only for `2 <= IDX < NEDGE`: detectors 0 and 1 are the lever's own. Every other
command's fields are legal at every value. -/
def Instr.wellFormed (nedge : Nat) : Instr → Bool
  | .nop => true
  | .axs _ => true
  | .axs2 => true
  | .edg idx _ => decide (2 ≤ idx.toNat) && decide (idx.toNat < nedge)
  | .lvs => true
  | .cyc => true
  | .rst => true

end Sys2Proof
end

