-- ==== Sys2Proof/Certificates/Slice0/Obligations.lean ====
section
/-! DEFINITION. The statements about the DIAG core that the provers settle. Each docstring names the rule of spec/ the
statement comes from, or says what of it is the model's own choice. -/

open Sys2Proof Sys2Proof.Machine

/-! ### Decoding and the step -/

/-- Rules R24 and R80: when the next access writes to CMD a word that decodes to i, by whichever agent, the step is
the meaning of i in the state with that access taken. (The queue of accesses is the model's, assumption log 1.) -/
def Obligations.StepRunsDecodedCommand : Prop :=
  ∀ (s : State) (agent : Agent) (v : Word) (i : Instr) (rest : List Event),
    s.cfg.legal = true →
    s.pending = .access ⟨agent, 0x00#8, 8, .write v⟩ :: rest →
    decodeCommand v = .ok i →
    step s = exec i (s.withPending rest)

/-- Rule R88, its list read at NEDGE = 4: each word decodes to the command it names. -/
def Obligations.ListedWordsDecode : Prop :=
  decodeCommand 0x0000000000000000#64 = .ok .nop ∧
  decodeCommand 0x0000000000000001#64 = .ok (.axs .forward) ∧
  decodeCommand 0x0000000000000101#64 = .ok (.axs .lateral) ∧
  decodeCommand 0x0000000000000002#64 = .ok .axs2 ∧
  decodeCommand 0x0000000000000203#64 = .ok (.edg 2#4 false) ∧
  decodeCommand 0x0000000000001203#64 = .ok (.edg 2#4 true) ∧
  decodeCommand 0x0000000000000303#64 = .ok (.edg 3#4 false) ∧
  decodeCommand 0x0000000000001303#64 = .ok (.edg 3#4 true) ∧
  decodeCommand 0x0000000000000004#64 = .ok .lvs ∧
  decodeCommand 0x0000000000000005#64 = .ok .cyc ∧
  decodeCommand 0x00000000000000A5#64 = .ok .rst

/-- Rule R88: the legal command words are exactly the listed ones, each naming its command, for every NEDGE rule R8
allows; every other word is illegal. -/
def Obligations.LegalWordsExactly : Prop :=
  ∀ (nedge : Nat) (v : Word) (i : Instr), 2 ≤ nedge → nedge ≤ 16 →
    ((decodeCommand v = .ok i ∧ i.wellFormed nedge = true) ↔
      (i = .nop ∧ v = 0x0000000000000000#64) ∨ (i = .axs .forward ∧ v = 0x0000000000000001#64) ∨
        (i = .axs .lateral ∧ v = 0x0000000000000101#64) ∨ (i = .axs2 ∧ v = 0x0000000000000002#64) ∨
        (∃ (idx : BitVec 4) (r : Bool), i = .edg idx r ∧ 2 ≤ idx.toNat ∧ idx.toNat < nedge ∧
          v = 0x03#64 ||| (BitVec.ofNat 64 idx.toNat <<< 8) ||| (BitVec.ofNat 64 r.toNat <<< 12)) ∨
        (i = .lvs ∧ v = 0x0000000000000004#64) ∨ (i = .cyc ∧ v = 0x0000000000000005#64) ∨
        (i = .rst ∧ v = 0x00000000000000A5#64))

/-- Rules R80 to R84: the decoder and the encoder agree in both directions, over every 64-bit word and every command
with every field value: decoding an encoded command gives it back, and a word that decodes is the encoding of what it
decodes to. -/
def Obligations.DecodeEncodeAgree : Prop :=
  ∀ (v : Word) (i : Instr), decodeCommand v = .ok i ↔ v = encode i

/-- Rules R80, R87 and R181: a word written to CMD that is no command is recorded under the code of its cause, in the
order of rule R185, and changes nothing else. -/
def Obligations.IllegalCommandOnlyRecorded : Prop :=
  ∀ (s : State) (agent : Agent) (v : Word) (rest : List Event),
    s.cfg.legal = true →
    s.pending = .access ⟨agent, 0x00#8, 8, .write v⟩ :: rest →
    ((v.toNat % 256 ∉ [0x00, 0x01, 0x02, 0x03, 0x04, 0x05, 0xA5] →
        step s = .next (illegalCommandRecorded (s.withPending rest) 1#4)) ∧
      (v.toNat % 256 ∈ [0x00, 0x02, 0x04, 0x05, 0xA5] → 2 ^ 8 ≤ v.toNat →
        step s = .next (illegalCommandRecorded (s.withPending rest) 2#4)) ∧
      (v.toNat % 256 = 0x01 → 2 ^ 9 ≤ v.toNat →
        step s = .next (illegalCommandRecorded (s.withPending rest) 2#4)) ∧
      (v.toNat % 256 = 0x03 → 2 ^ 13 ≤ v.toNat →
        step s = .next (illegalCommandRecorded (s.withPending rest) 2#4)) ∧
      (v.toNat % 256 = 0x03 → v.toNat < 2 ^ 13 →
        (v.toNat / 2 ^ 8 % 16 < 2 ∨ s.cfg.nedge ≤ v.toNat / 2 ^ 8 % 16) →
        step s = .next (illegalCommandRecorded (s.withPending rest) 3#4)))

/-! ### Reset -/

/-- Rules R172, R200 and R25 to R44: RST runs ResetCore; it completes, leaves every register reading its reset value and
the bits it stores with it, and leaves the configuration as it was. (That the accesses to come and the replies stay as
they were is the model's choice, assumption log 11.) -/
def Obligations.RstSetsEveryResetValue : Prop :=
  ∀ s : State, ∃ t, exec .rst s = .next t ∧
    t.cfg = s.cfg ∧ t.pending = s.pending ∧ t.replies = s.replies ∧
    statusWord t.status = 0x0000000000000003#64 ∧
    t.argA = 0#32 ∧ t.argB = 0#32 ∧ t.argPos = 0x0000000000000000#64 ∧ t.argIn = 0#5 ∧
    t.resF = 0x7FF8000000000000#64 ∧ t.resL = 0x7FF8000000000000#64 ∧ t.resTgt = 0x7FF8000000000000#64 ∧
    t.resSpd = 0#8 ∧ t.resEdge = 0#16 ∧ t.edgeLast = 0#16 ∧
    t.lastAF = 0#32 ∧ t.lastBF = 0#32 ∧ t.lastAL = 0#32 ∧ t.lastBL = 0#32

/-- Rule R201: the block's reset input runs the same ResetCore as RST. (That it is an event among the accesses is the
model's choice, assumption log 11.) -/
def Obligations.ResetInputActsAsRst : Prop :=
  ∀ (s : State) (rest : List Event), s.cfg.legal = true → s.pending = .resetInput :: rest →
    step s = exec .rst (s.withPending rest)

/-- Rules R9, R21 and R202: what the registers read in the state after reset, with the default configuration. (That
the model starts in the default configuration, and with no access to come, is its own choice, assumption log 8 and 1.) -/
def Obligations.ResetStateReadsSpecValues : Prop :=
  State.reset.readReg .cmd = 0#64 ∧ State.reset.readReg .status = 0x3#64 ∧
  State.reset.readReg .argA = 0#64 ∧ State.reset.readReg .argB = 0#64 ∧
  State.reset.readReg .argPos = 0#64 ∧ State.reset.readReg .argIn = 0#64 ∧
  State.reset.readReg .resF = 0x7FF8000000000000#64 ∧ State.reset.readReg .resL = 0x7FF8000000000000#64 ∧
  State.reset.readReg .resTgt = 0x7FF8000000000000#64 ∧ State.reset.readReg .resSpd = 0#64 ∧
  State.reset.readReg .resEdge = 0#64 ∧ State.reset.readReg .edgeLast = 0#64 ∧
  State.reset.readReg .lastAF = 0#64 ∧ State.reset.readReg .lastBF = 0#64 ∧
  State.reset.readReg .lastAL = 0#64 ∧ State.reset.readReg .lastBL = 0#64 ∧
  State.reset.readReg .cfgId = 0x104#64 ∧ State.reset.readReg .cfgTpr = 0x2000#64 ∧
  State.reset.readReg .cfgWdF = 0x4000000000000000#64 ∧ State.reset.readReg .cfgWdL = 0x4000000000000000#64 ∧
  State.reset.readReg .cfgLmin = 0x0000000000000000#64 ∧ State.reset.readReg .cfgLmax = 0x4070E00000000000#64 ∧
  State.reset.readReg .cfgBzone = 0x4024000000000000#64 ∧ State.reset.readReg .cfgSzone = 0x4024000000000000#64 ∧
  State.reset.readReg .cfgEps = 0x4000000000000000#64 ∧ State.reset.readReg .cfgSpeeds = 0x00000000321E467F#64 ∧
  State.reset.pending = [] ∧ State.reset.replies = []

/-- The invariant holds after reset. -/
def Obligations.ResetSatisfiesInvariant : Prop := State.reset.Inv

/-- Rules R26 to R29, R38 to R40, R180 and R181 as one invariant of the registers: every step keeps it, from every
state that has it. -/
def Obligations.EveryStepKeepsInvariant : Prop :=
  ∀ s t : State, s.Inv → step s = .next t → t.Inv

/-! ### The commands -/

/-- Rule R170: NOP does nothing. -/
def Obligations.NopChangesNothing : Prop := ∀ s : State, exec .nop s = .next s

/-- Rule R103 for instance F with an available sample: the result, the stored ticks and the flag, and nothing else. -/
def Obligations.AxsForwardSample : Prop :=
  ∀ s : State, s.argIn.getLsbD 0 = true → s.argIn.getLsbD 1 = true →
    exec (.axs .forward) s = .next
      { s with
        lastAF := s.argA
        lastBF := s.argB
        resF :=
          let ipt := F64.div (F64.mul 0x400921FB54442D18#64 s.cfg.wdF) (F64.ofInt s.cfg.tpr)
          F64.div
            (F64.add (F64.mul (F64.ofInt (s.argA.toInt - s.lastAF.toInt)) ipt)
              (F64.mul (F64.ofInt (s.argB.toInt - s.lastBF.toInt)) ipt))
            0x3FF6A09E667F3BCD#64
        status := { s.status with unavF := false } }

/-- Rule R103 for instance L with an available sample. -/
def Obligations.AxsLateralSample : Prop :=
  ∀ s : State, s.argIn.getLsbD 0 = true → s.argIn.getLsbD 1 = true →
    exec (.axs .lateral) s = .next
      { s with
        lastAL := s.argA
        lastBL := s.argB
        resL :=
          let ipt := F64.div (F64.mul 0x400921FB54442D18#64 s.cfg.wdL) (F64.ofInt s.cfg.tpr)
          F64.div
            (F64.sub (F64.mul (F64.ofInt (s.argA.toInt - s.lastAL.toInt)) ipt)
              (F64.mul (F64.ofInt (s.argB.toInt - s.lastBL.toInt)) ipt))
            0x3FF6A09E667F3BCD#64
        status := { s.status with unavL := false } }

/-- Rule R104: a failed read of either channel reports unavailable and leaves the stored ticks, and all else, as they
were; so it does for AXS2 in both instances (rule R112). -/
def Obligations.FailedReadReportsUnavailable : Prop :=
  ∀ s : State, s.argIn.getLsbD 0 = false ∨ s.argIn.getLsbD 1 = false →
    exec (.axs .forward) s = .next
      { s with resF := 0x7FF8000000000000#64, status := { s.status with unavF := true } } ∧
    exec (.axs .lateral) s = .next
      { s with resL := 0x7FF8000000000000#64, status := { s.status with unavL := true } } ∧
    exec .axs2 s = .next
      { s with
        resF := 0x7FF8000000000000#64
        resL := 0x7FF8000000000000#64
        status := { s.status with unavF := true, unavL := true } }

/-- Rule R112 with an available sample: both instances difference the one shared sample, each against its own last
sample, and both store it. -/
def Obligations.SharedSampleOfBothAxes : Prop :=
  ∀ s : State, s.argIn.getLsbD 0 = true → s.argIn.getLsbD 1 = true →
    exec .axs2 s = .next
      { s with
        lastAF := s.argA
        lastBF := s.argB
        lastAL := s.argA
        lastBL := s.argB
        resF := axisDistance s.cfg .forward (s.argA.toInt - s.lastAF.toInt) (s.argB.toInt - s.lastBF.toInt)
        resL := axisDistance s.cfg .lateral (s.argA.toInt - s.lastAL.toInt) (s.argB.toInt - s.lastBL.toInt)
        status := { s.status with unavF := false, unavL := false } }

/-- Rules R160 and R162: EDG of a legal index observes one detector and leaves every other detector's bits and all
other state alone. -/
def Obligations.EdgObservesOneDetector : Prop :=
  ∀ (s : State) (idx : BitVec 4) (r : Bool), 2 ≤ idx.toNat → idx.toNat < s.cfg.nedge →
    ∃ t, exec (.edg idx r) s = .next t ∧
      t = { s with edgeLast := t.edgeLast, resEdge := t.resEdge } ∧
      (∀ n : Nat, t.edgeLast.getLsbD n = if n = idx.toNat then r else s.edgeLast.getLsbD n) ∧
      (∀ n : Nat, t.resEdge.getLsbD n =
        if n = idx.toNat then r && !s.edgeLast.getLsbD n else s.resEdge.getLsbD n)

/-- Rule R137 in Idle without a trigger edge: the Idle command, rule R136. -/
def Obligations.LeverHoldsWhileIdle : Prop :=
  ∀ s : State, s.status.lever = .idle → s.triggerEdge = false →
    ∃ t, exec .lvs s = .next t ∧ leverStepResult s t s.argPos s.cfg.hold .idle false false

/-- Rule R137 in Idle with a trigger edge: the step starts to extend, commands so at once, and, at a position inside
the epsilon band, already turns to Retracting (rule R143). -/
def Obligations.TriggerStartsExtending : Prop :=
  ∀ s : State, s.status.lever = .idle → s.triggerEdge = true →
    ∃ t, exec .lvs s = .next t ∧
      leverStepResult s t s.cfg.lmax
        (if F64.le s.argPos s.cfg.startBoost = true then s.cfg.boost
          else if F64.ge s.argPos (F64.sub s.cfg.lmax s.cfg.snapZone) = true then s.cfg.boost
          else if s.argIn.getLsbD 4 = true then s.cfg.fast else s.cfg.slow)
        (if F64.ge s.argPos (F64.sub s.cfg.lmax s.cfg.eps) = true then .retracting else .extending)
        true false

/-- Rule R137 while Extending, with or without a trigger edge: the zone's speed toward LMAX, and the position
transition of rule R134. -/
def Obligations.LeverExtends : Prop :=
  ∀ s : State, s.status.lever = .extending →
    ∃ t, exec .lvs s = .next t ∧
      leverStepResult s t s.cfg.lmax
        (if F64.le s.argPos s.cfg.startBoost = true then s.cfg.boost
          else if F64.ge s.argPos (F64.sub s.cfg.lmax s.cfg.snapZone) = true then s.cfg.boost
          else if s.argIn.getLsbD 4 = true then s.cfg.fast else s.cfg.slow)
        (if F64.ge s.argPos (F64.sub s.cfg.lmax s.cfg.eps) = true then .retracting else .extending)
        false s.triggerEdge

/-- Rule R137 while Retracting, with or without a trigger edge: the retract speed of rule R132 toward LMIN, and the
position transition of rule R134. -/
def Obligations.LeverRetracts : Prop :=
  ∀ s : State, s.status.lever = .retracting →
    ∃ t, exec .lvs s = .next t ∧
      leverStepResult s t s.cfg.lmin
        (if s.argIn.getLsbD 4 = true then s.cfg.fast else s.cfg.slow)
        (if F64.le s.argPos (F64.add s.cfg.lmin s.cfg.eps) = true then .idle else .retracting)
        false s.triggerEdge

/-- Rule R171: CYC completes with exactly the effect of AXS2 followed by LVS. -/
def Obligations.CycleIsBothAxesThenLever : Prop :=
  ∀ s : State, ∃ t u, exec .axs2 s = .next t ∧ exec .lvs t = .next u ∧ exec .cyc s = .next u

/-! ### The register window -/

/-- Rules R21, R24 to R52, R62 and R68: a well-formed read of any register of the map, by either agent, returns its
value and changes no register. -/
def Obligations.ReadsReturnTheRegisterMap : Prop :=
  ∀ (s : State) (agent : Agent) (off : Nat) (v : Word) (rest : List Event),
    s.cfg.legal = true → (off, v) ∈ registerMap s →
    s.pending = .access ⟨agent, BitVec.ofNat 8 off, 8, .read⟩ :: rest →
    step s = .next { s with pending := rest, replies := ⟨agent, v⟩ :: s.replies }

/-- Rules R31 to R34 and R63: a well-formed write to an operand register stores its low bits and changes nothing
else. -/
def Obligations.WritesStoreOperands : Prop :=
  ∀ (s : State) (agent : Agent) (v : Word) (rest : List Event), s.cfg.legal = true →
    (s.pending = .access ⟨agent, 0x10#8, 8, .write v⟩ :: rest →
      step s = .next { s with pending := rest, argA := BitVec.ofNat 32 v.toNat }) ∧
    (s.pending = .access ⟨agent, 0x18#8, 8, .write v⟩ :: rest →
      step s = .next { s with pending := rest, argB := BitVec.ofNat 32 v.toNat }) ∧
    (s.pending = .access ⟨agent, 0x20#8, 8, .write v⟩ :: rest →
      step s = .next { s with pending := rest, argPos := v }) ∧
    (s.pending = .access ⟨agent, 0x28#8, 8, .write v⟩ :: rest →
      step s = .next { s with pending := rest, argIn := BitVec.ofNat 5 v.toNat })

/-- Rules R61, R181 and R183: an access of another width or at a misaligned offset is recorded with ECODE 4, a read
returns 0, and nothing else changes. -/
def Obligations.MalformedAccessOnlyRecorded : Prop :=
  ∀ (s : State) (a : Access) (rest : List Event), s.cfg.legal = true →
    s.pending = .access a :: rest → (a.width ≠ 8 ∨ a.off.toNat % 8 ≠ 0) →
    step s = .next (accessErrorRecorded (s.withPending rest) a 4#4)

/-- Rule R45, with rules R61 and R185: any access to a reserved offset, 0xE0, 0xE8, 0xF0 or 0xF8, is an access error,
recorded with ECODE 6, or with ECODE 4 where its width is not 8; nothing is stored and a read returns 0. -/
def Obligations.ReservedOffsetOnlyRecorded : Prop :=
  ∀ (s : State) (a : Access) (rest : List Event), s.cfg.legal = true →
    s.pending = .access a :: rest → a.off.toNat ∈ [0xE0, 0xE8, 0xF0, 0xF8] →
    step s = .next (accessErrorRecorded (s.withPending rest) a (if a.width = 8 then 6#4 else 4#4))

/-- Rules R63 and R181: a well-formed write to a read-only register is recorded with ECODE 5 and stores nothing. -/
def Obligations.ReadOnlyWriteOnlyRecorded : Prop :=
  ∀ (s : State) (a : Access) (v : Word) (rest : List Event), s.cfg.legal = true →
    s.pending = .access a :: rest → a.op = .write v → a.width = 8 → a.off.toNat % 8 = 0 →
    (a.off.toNat = 0x08 ∨ (0x30 ≤ a.off.toNat ∧ a.off.toNat < 0xE0)) →
    step s = .next (accessErrorRecorded (s.withPending rest) a 5#4)

/-- Rules R60 and R61: exactly the bus addresses BASE to BASE + 0xFF reach the core, each at its offset `addr - BASE`. -/
def Obligations.WindowIsExactlyItsAddresses : Prop :=
  ∀ (c : Config) (addr : Nat) (off : BitVec 8),
    c.windowOffset addr = some off ↔ addr = c.base + off.toNat

/-- Rule R64: byte k of a register's value is its bits 8k+7 to 8k. -/
def Obligations.BytesAreLittleEndian : Prop :=
  ∀ (v : Word) (k j : Nat), k < 8 → j < 8 → (byteOf v k).getLsbD j = v.getLsbD (8 * k + j)

/-- Rule R90: the pseudo-instruction `cycle` runs as one control cycle: five accesses that leave the core as CYC leaves
it on the operands they wrote. -/
def Obligations.CycleLineRunsOneCycle : Prop :=
  ∀ (s : State) (a b : Word) (va vb t0 t1 aux : Bool) (p : F64),
    s.cfg.legal = true → s.pending = [] →
    ∃ t, Runs 5 (s.withPending ((AsmLine.cycle a b va vb t0 t1 aux p).expand)) t ∧
      exec .cyc
          { s with
            argA := BitVec.ofNat 32 a.toNat
            argB := BitVec.ofNat 32 b.toNat
            argPos := p
            argIn := BitVec.ofNat 5 (bitAt 0 va + bitAt 1 vb + bitAt 2 t0 + bitAt 3 t1 + bitAt 4 aux) } = .next t

/-! ### Rules of the whole machine -/

/-- Rules R67 and R214: every step of a legal core completes, and a read is answered with exactly one value, to its agent.
(The model's choices are that a step takes one event from a queue, assumption log 1; that with no event to come it changes
nothing, assumption log 2; and that a write or a reset adds no reply, assumption log 3, where rule R214 gives every access
a response.) -/
def Obligations.EveryEventCompletes : Prop :=
  ∀ s : State, s.cfg.legal = true →
    ∃ t, step s = .next t ∧ t.pending = s.pending.tail ∧
      ((∃ agent off width v, s.nextEvent = some (.access ⟨agent, off, width, .read⟩) ∧
          t.replies = ⟨agent, v⟩ :: s.replies) ∨
        (¬(∃ agent off width, s.nextEvent = some (.access ⟨agent, off, width, .read⟩)) ∧ t.replies = s.replies))

/-- Rule R8, with the bound of TPR's type in rule R7: a step is refused exactly where one of the constraints fails, so
that overlapping zones are refused nowhere. (That the refusal comes from the step is the model's choice, assumption
log 7.) -/
def Obligations.IllegalConfigurationRefused : Prop :=
  ∀ s : State, step s = .refused .illegalConfiguration ↔
    ¬(1 ≤ s.cfg.tpr ∧ s.cfg.tpr < 2 ^ 31 ∧
      F64.isFinite s.cfg.wdF = true ∧ F64.lt 0x0000000000000000#64 s.cfg.wdF = true ∧
      F64.isFinite s.cfg.wdL = true ∧ F64.lt 0x0000000000000000#64 s.cfg.wdL = true ∧
      F64.isFinite s.cfg.lmin = true ∧ F64.isFinite s.cfg.lmax = true ∧ F64.isFinite s.cfg.startBoost = true ∧
      F64.isFinite s.cfg.snapZone = true ∧ F64.isFinite s.cfg.eps = true ∧
      F64.ge s.cfg.eps 0x0000000000000000#64 = true ∧ F64.lt s.cfg.lmin s.cfg.lmax = true ∧
      s.cfg.boost.toNat ≤ 127 ∧ s.cfg.fast.toNat ≤ 127 ∧ s.cfg.slow.toNat ≤ 127 ∧ s.cfg.hold.toNat ≤ 127 ∧
      2 ≤ s.cfg.nedge ∧ s.cfg.nedge ≤ 16)

/-- Rule R46: no step changes the configuration, and every read of a configuration register returns its value (the
reads are `ReadsReturnTheRegisterMap`). -/
def Obligations.ConfigurationNeverChanges : Prop :=
  ∀ s t : State, step s = .next t → t.cfg = s.cfg

/-- Rules R22, R31 to R34 and R54: an operand register changes only by a well-formed write to it or by a reset. -/
def Obligations.OperandsChangeOnlyByWriteOrReset : Prop :=
  ∀ s t : State, step s = .next t → (∀ e, s.nextEvent = some e → e.isReset = false) →
    ((∀ e, s.nextEvent = some e → e.writesTo 0x10#8 = false) → t.argA = s.argA) ∧
    ((∀ e, s.nextEvent = some e → e.writesTo 0x18#8 = false) → t.argB = s.argB) ∧
    ((∀ e, s.nextEvent = some e → e.writesTo 0x20#8 = false) → t.argPos = s.argPos) ∧
    ((∀ e, s.nextEvent = some e → e.writesTo 0x28#8 = false) → t.argIn = s.argIn)

/-- Rule R30: the error fields are sticky; only a reset clears them, and it clears them all. -/
def Obligations.ErrorFieldsAreSticky : Prop :=
  ∀ s t : State, step s = .next t →
    ((∀ e, s.nextEvent = some e → e.isReset = false) →
      (s.status.ill = true → t.status.ill = true) ∧
      (s.status.accerr = true → t.status.accerr = true) ∧
      (s.status.ecode ≠ 0#4 → t.status.ecode = s.status.ecode)) ∧
    ((∃ e, s.nextEvent = some e ∧ e.isReset = true) →
      t.status.ill = false ∧ t.status.accerr = false ∧ t.status.ecode = 0#4)

/-- Rules R142, R143 and R172: the lever leaves its state only in a lever step, by the transitions of rules R134 and
R135, or by a reset, which always leaves it Idle. -/
def Obligations.LeverMovesOnlyByItsTransitions : Prop :=
  ∀ s t : State, step s = .next t →
    ((∃ e, s.nextEvent = some e ∧ e.isReset = true) → t.status.lever = .idle) ∧
    ((∀ e, s.nextEvent = some e → e.isReset = false) → t.status.lever ≠ s.status.lever →
      (∃ e, s.nextEvent = some e ∧ e.isLeverStep = true) ∧
      ((s.status.lever = .idle ∧ t.status.lever = .extending ∧ s.triggerEdge = true ∧
          F64.ge s.argPos (F64.sub s.cfg.lmax s.cfg.eps) = false) ∨
        (s.status.lever = .idle ∧ t.status.lever = .retracting ∧ s.triggerEdge = true ∧
          F64.ge s.argPos (F64.sub s.cfg.lmax s.cfg.eps) = true) ∨
        (s.status.lever = .extending ∧ t.status.lever = .retracting ∧
          F64.ge s.argPos (F64.sub s.cfg.lmax s.cfg.eps) = true) ∨
        (s.status.lever = .retracting ∧ t.status.lever = .idle ∧
          F64.le s.argPos (F64.add s.cfg.lmin s.cfg.eps) = true)))

/-- Rule R69: the core does not tell agents apart: a step commutes with forgetting which agent made which access. -/
def Obligations.AgentsMakeNoDifference : Prop :=
  ∀ s t : State, step s = .next t → step s.untagged = .next t.untagged

/-- Rules R62, R66 and R68: wherever the reporter's reads fall between the other events, they change no register and no
value the host reads. -/
def Obligations.ReporterReadsAreInvisible : Prop :=
  ∀ (s : State) (es : List Event), s.cfg.legal = true → reporterOnlyReads es = true →
    ∃ t u, Runs es.length (s.withPending es) t ∧
      Runs (withoutReporter es).length (s.withPending (withoutReporter es)) u ∧
      t.window = u.window ∧ t.hostReplies = u.hostReplies

/-! ### Laws of the lever -/

/-- Rule R133: with overlapping zones boost dominates at every position that is not a NaN, the configuration being legal;
and no lever step records an error. -/
def Obligations.OverlappingZonesBoost : Prop :=
  (∀ (c : Config) (pos : F64) (aux : Bool), c.legal = true →
    F64.le (F64.sub c.lmax c.snapZone) c.startBoost = true → F64.isNaN pos = false →
    extendSpeed c pos aux = c.boost) ∧
  (∀ s t : State, exec .lvs s = .next t →
    t.status.ill = s.status.ill ∧ t.status.accerr = s.status.accerr ∧ t.status.ecode = s.status.ecode)

/-- Rule R140: a NaN position makes every comparison false: cruise speed, no position transition, and the Idle target is
that NaN. -/
def Obligations.NaNPositionNeverTransitions : Prop :=
  ∀ s : State, F64.isNaN s.argPos = true →
    ∃ t, exec .lvs s = .next t ∧
      (s.status.lever = .idle → s.triggerEdge = false → t.status.lever = .idle ∧ t.resTgt = s.argPos) ∧
      (s.status.lever = .idle → s.triggerEdge = true → t.status.lever = .extending) ∧
      (s.status.lever = .extending → t.status.lever = .extending) ∧
      (s.status.lever = .retracting → t.status.lever = .retracting) ∧
      (t.status.lever ≠ .idle → t.resSpd = if s.argIn.getLsbD 4 = true then s.cfg.fast else s.cfg.slow)

/-- Rule R144: every command's target is LMAX (Extending, also from a trigger in Idle), LMIN (Retracting) or the step's
position (Idle), and its speed one of the four, so at most 127; and a trigger edge while Extending changes only TIGN and the detectors: the same step with other trigger inputs and
other stored samples leaves all else the same, LMAX as the target among it. -/
def Obligations.NoRetriggerWhileExtending : Prop :=
  (∀ s t : State, s.cfg.legal = true → exec .lvs s = .next t →
    (s.status.lever = .extending ∨ (s.status.lever = .idle ∧ s.triggerEdge = true) → t.resTgt = s.cfg.lmax) ∧
    (s.status.lever = .retracting → t.resTgt = s.cfg.lmin) ∧
    (s.status.lever = .idle → s.triggerEdge = false → t.resTgt = s.argPos) ∧
    (t.resSpd = s.cfg.boost ∨ t.resSpd = s.cfg.fast ∨ t.resSpd = s.cfg.slow ∨ t.resSpd = s.cfg.hold) ∧
    t.resSpd.toNat ≤ 127) ∧
  (∀ (s : State) (inputs : BitVec 5) (samples : BitVec 16), s.status.lever = .extending →
    inputs.getLsbD 4 = s.argIn.getLsbD 4 →
    ∃ t u, exec .lvs s = .next t ∧ exec .lvs { s with argIn := inputs, edgeLast := samples } = .next u ∧
      t.resTgt = s.cfg.lmax ∧
      u =
        { t with
          argIn := inputs
          edgeLast := u.edgeLast
          resEdge := u.resEdge
          status := { t.status with tign := u.status.tign } })

/-- Rule R141: a lever whose position never reaches its threshold stays in its state for ever, whatever else the agents do
short of a reset. -/
def Obligations.StalledLeverNeverReturns : Prop :=
  ∀ (s : State) (es : List Event), s.cfg.legal = true →
    (s.status.lever = .extending → extendDone s.cfg s.argPos = false →
      positionsAll (fun p => !extendDone s.cfg p) es = true →
      ∃ t, Runs es.length (s.withPending es) t ∧ t.status.lever = .extending) ∧
    (s.status.lever = .retracting → retractDone s.cfg s.argPos = false →
      positionsAll (fun p => !retractDone s.cfg p) es = true →
      ∃ t, Runs es.length (s.withPending es) t ∧ t.status.lever = .retracting)

/-- Rule R212: a second lever step on the same inputs sees no trigger edge, and acts on the state the first step left. -/
def Obligations.SecondLeverStepSeesNoEdge : Prop :=
  ∀ s : State, ∃ t u, exec .lvs s = .next t ∧ exec .lvs t = .next u ∧
    t.triggerEdge = false ∧ u.status.tacc = false ∧ u.status.tign = false ∧
    u.resEdge.getLsbD 0 = false ∧ u.resEdge.getLsbD 1 = false ∧ u.edgeLast = t.edgeLast ∧
    (t.status.lever = .retracting → u.resTgt = s.cfg.lmin)

/-- Rules R131 and R134 in the default configuration: the thresholds are exactly 260.0, 268.0 and 2.0. -/
def Obligations.DefaultThresholdsAreExact : Prop :=
  F64.sub Config.default.lmax Config.default.snapZone = 0x4070400000000000#64 ∧
  F64.sub Config.default.lmax Config.default.eps = 0x4070C00000000000#64 ∧
  F64.add Config.default.lmin Config.default.eps = 0x4000000000000000#64

/-! ### Laws of the edge detectors and the shared sample -/

/-- Rule R161: over any sequence of observations of one detector, each followed by a read of RES_EDGE, the host reads an
edge exactly at the rising transitions of the samples, the first one measured against the stored sample. -/
def Obligations.DetectorEmitsExactlyTheRisingEdges : Prop :=
  ∀ (s : State) (idx : BitVec 4) (raws : List Bool), s.cfg.legal = true →
    2 ≤ idx.toNat → idx.toNat < s.cfg.nedge →
    ∃ t, Runs (2 * raws.length) (s.withPending (edgeProgram idx raws)) t ∧
      (t.replies.take raws.length).reverse.map (fun p => p.value.getLsbD idx.toNat) =
        risingEdges (s.edgeLast.getLsbD idx.toNat) raws

/-- Rules R55 and R205: under the shared-sample discipline the two instances hold the same last sample after every run
that started so. -/
def Obligations.DisciplineKeepsLastSamplesEqual : Prop :=
  ∀ (s : State) (es : List Event), s.cfg.legal = true → sharedSample none es = true →
    s.lastAF = s.lastAL → s.lastBF = s.lastBL →
    ∃ t, Runs es.length (s.withPending es) t ∧ t.lastAF = t.lastAL ∧ t.lastBF = t.lastBL

/-! ### Laws of the transform and of its arithmetic -/

/-- Rule R102: inchesPerTick by its formula, and in the default configuration its exact value, PI64 / 4096. -/
def Obligations.InchesPerTickByFormula : Prop :=
  (∀ (c : Config) (i : AxisInst), inchesPerTick c i =
    F64.div (F64.mul 0x400921FB54442D18#64 (match i with | .forward => c.wdF | .lateral => c.wdL))
      (F64.ofInt c.tpr)) ∧
  inchesPerTick Config.default .forward = 0x3F4921FB54442D18#64 ∧
  inchesPerTick Config.default .lateral = 0x3F4921FB54442D18#64 ∧
  F64.value 0x3F4921FB54442D18#64 = F64.value 0x400921FB54442D18#64 / 4096

/-- Rule R106, for a configuration whose inchesPerTick is finite and not negative (every such configuration, not every
legal one: assumption log 14): a sample with both ticks unchanged gives exactly +0.0. -/
def Obligations.UnchangedTicksGiveZero : Prop :=
  ∀ (s : State) (i : AxisInst), s.argIn.getLsbD 0 = true → s.argIn.getLsbD 1 = true →
    s.argA = s.lastA i → s.argB = s.lastB i →
    F64.isFinite (inchesPerTick s.cfg i) = true → F64.sign (inchesPerTick s.cfg i) = false →
    ∃ t, exec (.axs i) s = .next t ∧ t.res i = 0x0000000000000000#64

/-- Rule R107, for a configuration whose inchesPerTick is positive and finite (assumption log 14): no available sample
gives -0.0. -/
def Obligations.NoResultIsNegativeZero : Prop :=
  ∀ (s : State) (i : AxisInst), s.argIn.getLsbD 0 = true → s.argIn.getLsbD 1 = true →
    F64.isFinite (inchesPerTick s.cfg i) = true → F64.sign (inchesPerTick s.cfg i) = false →
    0 < F64.mag (inchesPerTick s.cfg i) →
    ∃ t, exec (.axs i) s = .next t ∧ t.res i ≠ 0x8000000000000000#64

/-- Rule R108 at the default inchesPerTick: every available sample gives a finite result, of magnitude at most
0x4151C5831ACB9D61, which is what both channels moving by the largest delta give. (The rule's own bound is refuted by
`LargestMagnitudeAsPrinted`, assumption log 15.) -/
def Obligations.DefaultResultsAreFiniteAndBounded : Prop :=
  ∀ (s : State) (i : AxisInst), s.argIn.getLsbD 0 = true → s.argIn.getLsbD 1 = true →
    inchesPerTick s.cfg i = 0x3F4921FB54442D18#64 →
    ∃ t, exec (.axs i) s = .next t ∧ F64.isFinite (t.res i) = true ∧
      (t.res i).toNat % 2 ^ 63 ≤ 0x4151C5831ACB9D61

/-- The last sentence of rule R108 as printed: with defaults no result is larger than 0x4141C5831ACB9D61. It fails:
both channels can move by the largest delta at once (assumption log 15). -/
def Obligations.LargestMagnitudeAsPrinted : Prop :=
  ∀ (s t : State) (i : AxisInst), s.argIn.getLsbD 0 = true → s.argIn.getLsbD 1 = true →
    s.cfg = Config.default → exec (.axs i) s = .next t →
    (t.res i).toNat % 2 ^ 63 ≤ 0x4141C5831ACB9D61

/-- The first sentence of rule R108 as printed: for every legal configuration no available sample overflows. It fails
for a wheel diameter near the largest finite value (assumption log 14). -/
def Obligations.LegalConfigurationNeverOverflows : Prop :=
  ∀ (s t : State) (i : AxisInst), s.argIn.getLsbD 0 = true → s.argIn.getLsbD 1 = true →
    s.cfg.legal = true → exec (.axs i) s = .next t → F64.isFinite (t.res i) = true

/-- Rules R12, R101 and R108: a tick delta is exact and at most 2^32 - 1 in magnitude, and the conversion of an integer
below 2^53 in magnitude is exact. -/
def Obligations.TickDeltasConvertExactly : Prop :=
  (∀ (s : State) (i : AxisInst),
    s.deltaA i = s.argA.toInt - (s.lastA i).toInt ∧ s.deltaB i = s.argB.toInt - (s.lastB i).toInt ∧
    (s.deltaA i).natAbs ≤ 2 ^ 32 - 1 ∧ (s.deltaB i).natAbs ≤ 2 ^ 32 - 1) ∧
  (∀ n : Int, n.natAbs < 2 ^ 53 →
    F64.isFinite (F64.ofInt n) = true ∧ F64.units (F64.ofInt n) = n * 2 ^ 1074)

/-- Rule R208: counts presented within the 32-bit range give the true motion as the delta. -/
def Obligations.CountsInRangeGiveTrueMotion : Prop :=
  ∀ (s : State) (i : AxisInst) (curr last : Int),
    -(2 ^ 31) ≤ curr → curr < 2 ^ 31 → -(2 ^ 31) ≤ last → last < 2 ^ 31 →
    (s.argA = BitVec.ofInt 32 curr → s.lastA i = BitVec.ofInt 32 last → s.deltaA i = curr - last) ∧
    (s.argB = BitVec.ofInt 32 curr → s.lastB i = BitVec.ofInt 32 last → s.deltaB i = curr - last)

/-- Rule R12, round-to-nearest-even: the magnitude the model's rounding gives is at least as near to num/den as every
other finite binary64 magnitude, and where another is equally near, the one given has an even last place. -/
def Obligations.RoundingIsToNearestEven : Prop :=
  ∀ num den : Nat, 0 < den → F64.round num den < F64.infBits →
    ∀ p : Nat, p < F64.infBits →
      ((F64.unitsOf (F64.round num den) : Int) * den - num).natAbs ≤ ((F64.unitsOf p : Int) * den - num).natAbs ∧
      (((F64.unitsOf (F64.round num den) : Int) * den - num).natAbs = ((F64.unitsOf p : Int) * den - num).natAbs →
        p ≠ F64.round num den → F64.round num den % 2 = 0)

/-- Rule R12, overflow: the rounding gives infinity exactly from the midpoint above the largest finite value on. -/
def Obligations.RoundingOverflowsAtTheMidpoint : Prop :=
  ∀ num den : Nat, 0 < den →
    (F64.round num den = F64.infBits ↔ den * ((2 ^ 54 - 1) * 2 ^ 2044) ≤ num)

/-- Rule R109 with an error bound, at the default inchesPerTick: the two raw deltas are recovered from the two results to
within 2^-50 of the motion. (The rule asks for a bound and gives none: this one is the model's, assumption log 17.) -/
def Obligations.TransformInvertsWithinRounding : Prop :=
  ∀ s : State, s.argIn.getLsbD 0 = true → s.argIn.getLsbD 1 = true →
    inchesPerTick s.cfg .forward = 0x3F4921FB54442D18#64 → inchesPerTick s.cfg .lateral = 0x3F4921FB54442D18#64 →
    s.lastAF = s.lastAL → s.lastBF = s.lastBL →
    ∃ t, exec .axs2 s = .next t ∧
      |(F64.value t.resF + F64.value t.resL) * F64.value 0x3FF6A09E667F3BCD#64
          - 2 * (s.deltaA .forward : Rat) * F64.value 0x3F4921FB54442D18#64| * 2 ^ 50
        ≤ (|(s.deltaA .forward : Rat)| + |(s.deltaB .forward : Rat)|) * F64.value 0x3F4921FB54442D18#64 ∧
      |(F64.value t.resF - F64.value t.resL) * F64.value 0x3FF6A09E667F3BCD#64
          - 2 * (s.deltaB .forward : Rat) * F64.value 0x3F4921FB54442D18#64| * 2 ^ 50
        ≤ (|(s.deltaA .forward : Rat)| + |(s.deltaB .forward : Rat)|) * F64.value 0x3F4921FB54442D18#64

/-- Rule R109's example: on the inputs 8192, 0 from reset the law fails as bit equality, by one unit in the last place. -/
def Obligations.TransformIsNotBitExactlyInvertible : Prop :=
  ∃ t, exec .axs2 { State.reset with argIn := 3#5, argA := 8192#32 } = .next t ∧
    F64.add (F64.mul t.resF 0x3FF6A09E667F3BCD#64) (F64.mul t.resL 0x3FF6A09E667F3BCD#64) = 0x402921FB54442D19#64 ∧
    F64.mul (F64.ofInt 16384) (inchesPerTick Config.default .forward) = 0x402921FB54442D18#64

/-! ### The duties of 70_reset_and_hazards.md section 3 as premises (rule R204) -/

/-- Rule R206 as a premise: a host that reads RES_i and STATUS after each sample of instance i and before the next one takes
every distance the core computes, in order, an unavailable one as none. -/
def Obligations.ConsumedResultsLoseNoDistance : Prop :=
  ∀ (s : State) (i : AxisInst) (es : List Event), s.cfg.legal = true → resultsConsumed i false false es = true →
    (∃ t, Runs es.length (s.withPending es) t) ∧
    distancesTaken i es.length none (s.withPending es) = distancesComputed i es.length (s.withPending es)

/-- Rule R207 as a premise: where the transition band exceeds the largest position change of one control cycle, the cycle
that ends a stroke finds the position short of the extreme, whatever else it holds. Without the premise a position step
can overshoot the extreme. -/
def Obligations.CalibratedBandCatchesEveryStroke : Prop :=
  ∀ (s : State) (largest : F64) (a b : Word) (va vb t0 t1 aux : Bool) (p : F64),
    s.cfg.legal = true → F64.isFinite largest = true → bandExceedsStep s.cfg largest = true →
    F64.isFinite s.argPos = true → F64.isFinite p = true →
    |F64.value p - F64.value s.argPos| ≤ F64.value largest →
    ∃ t, Runs 5 (s.withPending (AsmLine.cycle a b va vb t0 t1 aux p).expand) t ∧
      (s.status.lever = .extending → extendDone s.cfg s.argPos = false →
        (t.status.lever = .extending ∧ extendDone s.cfg p = false) ∨
          (t.status.lever = .retracting ∧ extendDone s.cfg p = true ∧ F64.value p < F64.value s.cfg.lmax)) ∧
      (s.status.lever = .retracting → retractDone s.cfg s.argPos = false →
        (t.status.lever = .retracting ∧ retractDone s.cfg p = false) ∨
          (t.status.lever = .idle ∧ retractDone s.cfg p = true ∧ F64.value s.cfg.lmin < F64.value p))

/-- Rules R210, R211 and R212 as premises. One writer decides the core: what the reporter's accesses leave in the window is
at most a record of access errors. And a control cycle of that writer with one sample and one lever step acts on the
lever as one LVS of the state before it on that sample, and forwards its command and no other; a cycle without a lever
step forwards nothing and leaves the command as it was, none while CMDV is 0. -/
def Obligations.SingleWriterCycleIsOneLeverStep : Prop :=
  (∀ (s : State) (es : List Event), s.cfg.legal = true → singleWriter es = true →
    ∃ t u, Runs es.length (s.withPending es) t ∧
      Runs (withoutReporter es).length (s.withPending (withoutReporter es)) u ∧
      t.window.withoutAccessErrors = u.window.withoutAccessErrors) ∧
  (∀ (s : State) (cycle : List Event), s.cfg.legal = true → singleWriter cycle = true →
    oneSample cycle = true → oneLeverStep (withoutReporter cycle) = true → noReset cycle = true →
    ∃ t u, Runs cycle.length (s.withPending cycle) t ∧
      exec .lvs { s with argPos := t.argPos, argIn := t.argIn } = .next u ∧
      ((withoutReporter cycle).any Event.isLeverStep = true →
        commandsForwarded cycle.length (s.withPending cycle) = [(u.resTgt, u.resSpd)] ∧
        t.actuatorCommand = some (u.resTgt, u.resSpd) ∧ t.status.lever = u.status.lever ∧
        t.status.tacc = u.status.tacc ∧ t.status.tign = u.status.tign ∧
        (∀ n : Nat, n < 2 →
          t.edgeLast.getLsbD n = u.edgeLast.getLsbD n ∧ t.resEdge.getLsbD n = u.resEdge.getLsbD n)) ∧
      ((withoutReporter cycle).any Event.isLeverStep = false →
        commandsForwarded cycle.length (s.withPending cycle) = [] ∧
        t.actuatorCommand = s.actuatorCommand ∧ t.status.lever = s.status.lever))
end

