-- ==== Sys2Proof/Laws/State.lean ====
section
/-! SUPPORT. What each update of State leaves of each field, one lemma per field per update, so that no later proof
unfolds a record update. -/

namespace Sys2Proof.Machine


/-! ### raise -/

@[simp] theorem State.raise_cfg (s : State) (e : ErrorCode) : (s.raise e).cfg = s.cfg := rfl
@[simp] theorem State.raise_status (s : State) (e : ErrorCode) : (s.raise e).status = s.status.record e := rfl
@[simp] theorem State.raise_argA (s : State) (e : ErrorCode) : (s.raise e).argA = s.argA := rfl
@[simp] theorem State.raise_argB (s : State) (e : ErrorCode) : (s.raise e).argB = s.argB := rfl
@[simp] theorem State.raise_argPos (s : State) (e : ErrorCode) : (s.raise e).argPos = s.argPos := rfl
@[simp] theorem State.raise_argIn (s : State) (e : ErrorCode) : (s.raise e).argIn = s.argIn := rfl
@[simp] theorem State.raise_resF (s : State) (e : ErrorCode) : (s.raise e).resF = s.resF := rfl
@[simp] theorem State.raise_resL (s : State) (e : ErrorCode) : (s.raise e).resL = s.resL := rfl
@[simp] theorem State.raise_resTgt (s : State) (e : ErrorCode) : (s.raise e).resTgt = s.resTgt := rfl
@[simp] theorem State.raise_resSpd (s : State) (e : ErrorCode) : (s.raise e).resSpd = s.resSpd := rfl
@[simp] theorem State.raise_resEdge (s : State) (e : ErrorCode) : (s.raise e).resEdge = s.resEdge := rfl
@[simp] theorem State.raise_edgeLast (s : State) (e : ErrorCode) : (s.raise e).edgeLast = s.edgeLast := rfl
@[simp] theorem State.raise_lastAF (s : State) (e : ErrorCode) : (s.raise e).lastAF = s.lastAF := rfl
@[simp] theorem State.raise_lastBF (s : State) (e : ErrorCode) : (s.raise e).lastBF = s.lastBF := rfl
@[simp] theorem State.raise_lastAL (s : State) (e : ErrorCode) : (s.raise e).lastAL = s.lastAL := rfl
@[simp] theorem State.raise_lastBL (s : State) (e : ErrorCode) : (s.raise e).lastBL = s.lastBL := rfl
@[simp] theorem State.raise_pending (s : State) (e : ErrorCode) : (s.raise e).pending = s.pending := rfl
@[simp] theorem State.raise_replies (s : State) (e : ErrorCode) : (s.raise e).replies = s.replies := rfl

/-! ### withPending -/

@[simp] theorem State.withPending_cfg (s : State) (es : List Event) : (s.withPending es).cfg = s.cfg := rfl
@[simp] theorem State.withPending_status (s : State) (es : List Event) : (s.withPending es).status = s.status := rfl
@[simp] theorem State.withPending_argA (s : State) (es : List Event) : (s.withPending es).argA = s.argA := rfl
@[simp] theorem State.withPending_argB (s : State) (es : List Event) : (s.withPending es).argB = s.argB := rfl
@[simp] theorem State.withPending_argPos (s : State) (es : List Event) : (s.withPending es).argPos = s.argPos := rfl
@[simp] theorem State.withPending_argIn (s : State) (es : List Event) : (s.withPending es).argIn = s.argIn := rfl
@[simp] theorem State.withPending_resF (s : State) (es : List Event) : (s.withPending es).resF = s.resF := rfl
@[simp] theorem State.withPending_resL (s : State) (es : List Event) : (s.withPending es).resL = s.resL := rfl
@[simp] theorem State.withPending_resTgt (s : State) (es : List Event) : (s.withPending es).resTgt = s.resTgt := rfl
@[simp] theorem State.withPending_resSpd (s : State) (es : List Event) : (s.withPending es).resSpd = s.resSpd := rfl
@[simp] theorem State.withPending_resEdge (s : State) (es : List Event) :
    (s.withPending es).resEdge = s.resEdge := rfl
@[simp] theorem State.withPending_edgeLast (s : State) (es : List Event) :
    (s.withPending es).edgeLast = s.edgeLast := rfl
@[simp] theorem State.withPending_lastAF (s : State) (es : List Event) : (s.withPending es).lastAF = s.lastAF := rfl
@[simp] theorem State.withPending_lastBF (s : State) (es : List Event) : (s.withPending es).lastBF = s.lastBF := rfl
@[simp] theorem State.withPending_lastAL (s : State) (es : List Event) : (s.withPending es).lastAL = s.lastAL := rfl
@[simp] theorem State.withPending_lastBL (s : State) (es : List Event) : (s.withPending es).lastBL = s.lastBL := rfl
@[simp] theorem State.withPending_pending (s : State) (es : List Event) : (s.withPending es).pending = es := rfl
@[simp] theorem State.withPending_replies (s : State) (es : List Event) :
    (s.withPending es).replies = s.replies := rfl

/-! ### Status.record -/

@[simp] theorem Status.record_unavF (t : Status) (e : ErrorCode) : (t.record e).unavF = t.unavF := rfl
@[simp] theorem Status.record_unavL (t : Status) (e : ErrorCode) : (t.record e).unavL = t.unavL := rfl
@[simp] theorem Status.record_lever (t : Status) (e : ErrorCode) : (t.record e).lever = t.lever := rfl
@[simp] theorem Status.record_cmdv (t : Status) (e : ErrorCode) : (t.record e).cmdv = t.cmdv := rfl
@[simp] theorem Status.record_tacc (t : Status) (e : ErrorCode) : (t.record e).tacc = t.tacc := rfl
@[simp] theorem Status.record_tign (t : Status) (e : ErrorCode) : (t.record e).tign = t.tign := rfl
@[simp] theorem Status.record_ill (t : Status) (e : ErrorCode) :
    (t.record e).ill = (t.ill || e.isIllegalCommand) := rfl
@[simp] theorem Status.record_accerr (t : Status) (e : ErrorCode) :
    (t.record e).accerr = (t.accerr || !e.isIllegalCommand) := rfl
@[simp] theorem Status.record_ecode (t : Status) (e : ErrorCode) :
    (t.record e).ecode = if t.ecode = 0#4 then e.code else t.ecode := rfl

/-! ### resetCore -/

@[simp] theorem State.resetCore_cfg (s : State) : s.resetCore.cfg = s.cfg := rfl
@[simp] theorem State.resetCore_status (s : State) : s.resetCore.status = Status.reset := rfl
@[simp] theorem State.resetCore_argA (s : State) : s.resetCore.argA = 0#32 := rfl
@[simp] theorem State.resetCore_argB (s : State) : s.resetCore.argB = 0#32 := rfl
@[simp] theorem State.resetCore_argPos (s : State) : s.resetCore.argPos = 0x0000000000000000#64 := rfl
@[simp] theorem State.resetCore_argIn (s : State) : s.resetCore.argIn = 0#5 := rfl
@[simp] theorem State.resetCore_resF (s : State) : s.resetCore.resF = qnan := rfl
@[simp] theorem State.resetCore_resL (s : State) : s.resetCore.resL = qnan := rfl
@[simp] theorem State.resetCore_resTgt (s : State) : s.resetCore.resTgt = qnan := rfl
@[simp] theorem State.resetCore_resSpd (s : State) : s.resetCore.resSpd = 0#8 := rfl
@[simp] theorem State.resetCore_resEdge (s : State) : s.resetCore.resEdge = 0#16 := rfl
@[simp] theorem State.resetCore_edgeLast (s : State) : s.resetCore.edgeLast = 0#16 := rfl
@[simp] theorem State.resetCore_lastAF (s : State) : s.resetCore.lastAF = 0#32 := rfl
@[simp] theorem State.resetCore_lastBF (s : State) : s.resetCore.lastBF = 0#32 := rfl
@[simp] theorem State.resetCore_lastAL (s : State) : s.resetCore.lastAL = 0#32 := rfl
@[simp] theorem State.resetCore_lastBL (s : State) : s.resetCore.lastBL = 0#32 := rfl
@[simp] theorem State.resetCore_pending (s : State) : s.resetCore.pending = s.pending := rfl
@[simp] theorem State.resetCore_replies (s : State) : s.resetCore.replies = s.replies := rfl

/-! ### edgeObserve -/

@[simp] theorem State.edgeObserve_cfg (s : State) (n : Nat) (raw : Bool) : (s.edgeObserve n raw).cfg = s.cfg := rfl
@[simp] theorem State.edgeObserve_status (s : State) (n : Nat) (raw : Bool) :
    (s.edgeObserve n raw).status = s.status := rfl
@[simp] theorem State.edgeObserve_argA (s : State) (n : Nat) (raw : Bool) : (s.edgeObserve n raw).argA = s.argA := rfl
@[simp] theorem State.edgeObserve_argB (s : State) (n : Nat) (raw : Bool) : (s.edgeObserve n raw).argB = s.argB := rfl
@[simp] theorem State.edgeObserve_argPos (s : State) (n : Nat) (raw : Bool) :
    (s.edgeObserve n raw).argPos = s.argPos := rfl
@[simp] theorem State.edgeObserve_argIn (s : State) (n : Nat) (raw : Bool) :
    (s.edgeObserve n raw).argIn = s.argIn := rfl
@[simp] theorem State.edgeObserve_resF (s : State) (n : Nat) (raw : Bool) : (s.edgeObserve n raw).resF = s.resF := rfl
@[simp] theorem State.edgeObserve_resL (s : State) (n : Nat) (raw : Bool) : (s.edgeObserve n raw).resL = s.resL := rfl
@[simp] theorem State.edgeObserve_resTgt (s : State) (n : Nat) (raw : Bool) :
    (s.edgeObserve n raw).resTgt = s.resTgt := rfl
@[simp] theorem State.edgeObserve_resSpd (s : State) (n : Nat) (raw : Bool) :
    (s.edgeObserve n raw).resSpd = s.resSpd := rfl
@[simp] theorem State.edgeObserve_resEdge (s : State) (n : Nat) (raw : Bool) :
    (s.edgeObserve n raw).resEdge = setBit s.resEdge n (s.edgeOutput n raw) := rfl
@[simp] theorem State.edgeObserve_edgeLast (s : State) (n : Nat) (raw : Bool) :
    (s.edgeObserve n raw).edgeLast = setBit s.edgeLast n raw := rfl
@[simp] theorem State.edgeObserve_lastAF (s : State) (n : Nat) (raw : Bool) :
    (s.edgeObserve n raw).lastAF = s.lastAF := rfl
@[simp] theorem State.edgeObserve_lastBF (s : State) (n : Nat) (raw : Bool) :
    (s.edgeObserve n raw).lastBF = s.lastBF := rfl
@[simp] theorem State.edgeObserve_lastAL (s : State) (n : Nat) (raw : Bool) :
    (s.edgeObserve n raw).lastAL = s.lastAL := rfl
@[simp] theorem State.edgeObserve_lastBL (s : State) (n : Nat) (raw : Bool) :
    (s.edgeObserve n raw).lastBL = s.lastBL := rfl
@[simp] theorem State.edgeObserve_pending (s : State) (n : Nat) (raw : Bool) :
    (s.edgeObserve n raw).pending = s.pending := rfl
@[simp] theorem State.edgeObserve_replies (s : State) (n : Nat) (raw : Bool) :
    (s.edgeObserve n raw).replies = s.replies := rfl

/-! ### observeTriggers and leverCommand -/

@[simp] theorem State.observeTriggers_cfg (s : State) : s.observeTriggers.cfg = s.cfg := rfl
@[simp] theorem State.observeTriggers_status (s : State) : s.observeTriggers.status = s.status := rfl
@[simp] theorem State.observeTriggers_argA (s : State) : s.observeTriggers.argA = s.argA := rfl
@[simp] theorem State.observeTriggers_argB (s : State) : s.observeTriggers.argB = s.argB := rfl
@[simp] theorem State.observeTriggers_argPos (s : State) : s.observeTriggers.argPos = s.argPos := rfl
@[simp] theorem State.observeTriggers_argIn (s : State) : s.observeTriggers.argIn = s.argIn := rfl
@[simp] theorem State.observeTriggers_resF (s : State) : s.observeTriggers.resF = s.resF := rfl
@[simp] theorem State.observeTriggers_resL (s : State) : s.observeTriggers.resL = s.resL := rfl
@[simp] theorem State.observeTriggers_resTgt (s : State) : s.observeTriggers.resTgt = s.resTgt := rfl
@[simp] theorem State.observeTriggers_resSpd (s : State) : s.observeTriggers.resSpd = s.resSpd := rfl
@[simp] theorem State.observeTriggers_lastAF (s : State) : s.observeTriggers.lastAF = s.lastAF := rfl
@[simp] theorem State.observeTriggers_lastBF (s : State) : s.observeTriggers.lastBF = s.lastBF := rfl
@[simp] theorem State.observeTriggers_lastAL (s : State) : s.observeTriggers.lastAL = s.lastAL := rfl
@[simp] theorem State.observeTriggers_lastBL (s : State) : s.observeTriggers.lastBL = s.lastBL := rfl
@[simp] theorem State.observeTriggers_pending (s : State) : s.observeTriggers.pending = s.pending := rfl
@[simp] theorem State.observeTriggers_replies (s : State) : s.observeTriggers.replies = s.replies := rfl
@[simp] theorem State.leverCommand_cfg (s : State) (trig : Bool) : (s.leverCommand trig).cfg = s.cfg := rfl
@[simp] theorem State.leverCommand_argA (s : State) (trig : Bool) : (s.leverCommand trig).argA = s.argA := rfl
@[simp] theorem State.leverCommand_argB (s : State) (trig : Bool) : (s.leverCommand trig).argB = s.argB := rfl
@[simp] theorem State.leverCommand_argPos (s : State) (trig : Bool) : (s.leverCommand trig).argPos = s.argPos := rfl
@[simp] theorem State.leverCommand_argIn (s : State) (trig : Bool) : (s.leverCommand trig).argIn = s.argIn := rfl
@[simp] theorem State.leverCommand_resF (s : State) (trig : Bool) : (s.leverCommand trig).resF = s.resF := rfl
@[simp] theorem State.leverCommand_resL (s : State) (trig : Bool) : (s.leverCommand trig).resL = s.resL := rfl
@[simp] theorem State.leverCommand_resEdge (s : State) (trig : Bool) :
    (s.leverCommand trig).resEdge = s.resEdge := rfl
@[simp] theorem State.leverCommand_edgeLast (s : State) (trig : Bool) :
    (s.leverCommand trig).edgeLast = s.edgeLast := rfl
@[simp] theorem State.leverCommand_lastAF (s : State) (trig : Bool) : (s.leverCommand trig).lastAF = s.lastAF := rfl
@[simp] theorem State.leverCommand_lastBF (s : State) (trig : Bool) : (s.leverCommand trig).lastBF = s.lastBF := rfl
@[simp] theorem State.leverCommand_lastAL (s : State) (trig : Bool) : (s.leverCommand trig).lastAL = s.lastAL := rfl
@[simp] theorem State.leverCommand_lastBL (s : State) (trig : Bool) : (s.leverCommand trig).lastBL = s.lastBL := rfl
@[simp] theorem State.leverCommand_pending (s : State) (trig : Bool) :
    (s.leverCommand trig).pending = s.pending := rfl
@[simp] theorem State.leverCommand_replies (s : State) (trig : Bool) :
    (s.leverCommand trig).replies = s.replies := rfl

/-! ### leverStep -/

@[simp] theorem State.leverStep_cfg (s : State) : s.leverStep.cfg = s.cfg := rfl
@[simp] theorem State.leverStep_argA (s : State) : s.leverStep.argA = s.argA := rfl
@[simp] theorem State.leverStep_argB (s : State) : s.leverStep.argB = s.argB := rfl
@[simp] theorem State.leverStep_argPos (s : State) : s.leverStep.argPos = s.argPos := rfl
@[simp] theorem State.leverStep_argIn (s : State) : s.leverStep.argIn = s.argIn := rfl
@[simp] theorem State.leverStep_resF (s : State) : s.leverStep.resF = s.resF := rfl
@[simp] theorem State.leverStep_resL (s : State) : s.leverStep.resL = s.resL := rfl
@[simp] theorem State.leverStep_lastAF (s : State) : s.leverStep.lastAF = s.lastAF := rfl
@[simp] theorem State.leverStep_lastBF (s : State) : s.leverStep.lastBF = s.lastBF := rfl
@[simp] theorem State.leverStep_lastAL (s : State) : s.leverStep.lastAL = s.lastAL := rfl
@[simp] theorem State.leverStep_lastBL (s : State) : s.leverStep.lastBL = s.lastBL := rfl
@[simp] theorem State.leverStep_pending (s : State) : s.leverStep.pending = s.pending := rfl
@[simp] theorem State.leverStep_replies (s : State) : s.leverStep.replies = s.replies := rfl

/-! ### answer and accessError -/

@[simp] theorem State.answer_cfg (s : State) (a : Access) (v : Word) :
    (s.answer a v).cfg = s.cfg := by unfold State.answer; split <;> rfl
@[simp] theorem State.answer_status (s : State) (a : Access) (v : Word) :
    (s.answer a v).status = s.status := by unfold State.answer; split <;> rfl
@[simp] theorem State.answer_argA (s : State) (a : Access) (v : Word) :
    (s.answer a v).argA = s.argA := by unfold State.answer; split <;> rfl
@[simp] theorem State.answer_argB (s : State) (a : Access) (v : Word) :
    (s.answer a v).argB = s.argB := by unfold State.answer; split <;> rfl
@[simp] theorem State.answer_argPos (s : State) (a : Access) (v : Word) :
    (s.answer a v).argPos = s.argPos := by unfold State.answer; split <;> rfl
@[simp] theorem State.answer_argIn (s : State) (a : Access) (v : Word) :
    (s.answer a v).argIn = s.argIn := by unfold State.answer; split <;> rfl
@[simp] theorem State.answer_resF (s : State) (a : Access) (v : Word) :
    (s.answer a v).resF = s.resF := by unfold State.answer; split <;> rfl
@[simp] theorem State.answer_resL (s : State) (a : Access) (v : Word) :
    (s.answer a v).resL = s.resL := by unfold State.answer; split <;> rfl
@[simp] theorem State.answer_resTgt (s : State) (a : Access) (v : Word) :
    (s.answer a v).resTgt = s.resTgt := by unfold State.answer; split <;> rfl
@[simp] theorem State.answer_resSpd (s : State) (a : Access) (v : Word) :
    (s.answer a v).resSpd = s.resSpd := by unfold State.answer; split <;> rfl
@[simp] theorem State.answer_resEdge (s : State) (a : Access) (v : Word) :
    (s.answer a v).resEdge = s.resEdge := by unfold State.answer; split <;> rfl
@[simp] theorem State.answer_edgeLast (s : State) (a : Access) (v : Word) :
    (s.answer a v).edgeLast = s.edgeLast := by unfold State.answer; split <;> rfl
@[simp] theorem State.answer_lastAF (s : State) (a : Access) (v : Word) :
    (s.answer a v).lastAF = s.lastAF := by unfold State.answer; split <;> rfl
@[simp] theorem State.answer_lastBF (s : State) (a : Access) (v : Word) :
    (s.answer a v).lastBF = s.lastBF := by unfold State.answer; split <;> rfl
@[simp] theorem State.answer_lastAL (s : State) (a : Access) (v : Word) :
    (s.answer a v).lastAL = s.lastAL := by unfold State.answer; split <;> rfl
@[simp] theorem State.answer_lastBL (s : State) (a : Access) (v : Word) :
    (s.answer a v).lastBL = s.lastBL := by unfold State.answer; split <;> rfl
@[simp] theorem State.answer_pending (s : State) (a : Access) (v : Word) :
    (s.answer a v).pending = s.pending := by unfold State.answer; split <;> rfl
@[simp] theorem State.accessError_cfg (s : State) (a : Access) (e : ErrorCode) :
    (s.accessError a e).cfg = s.cfg := by simp [State.accessError]
@[simp] theorem State.accessError_argA (s : State) (a : Access) (e : ErrorCode) :
    (s.accessError a e).argA = s.argA := by simp [State.accessError]
@[simp] theorem State.accessError_argB (s : State) (a : Access) (e : ErrorCode) :
    (s.accessError a e).argB = s.argB := by simp [State.accessError]
@[simp] theorem State.accessError_argPos (s : State) (a : Access) (e : ErrorCode) :
    (s.accessError a e).argPos = s.argPos := by simp [State.accessError]
@[simp] theorem State.accessError_argIn (s : State) (a : Access) (e : ErrorCode) :
    (s.accessError a e).argIn = s.argIn := by simp [State.accessError]
@[simp] theorem State.accessError_resF (s : State) (a : Access) (e : ErrorCode) :
    (s.accessError a e).resF = s.resF := by simp [State.accessError]
@[simp] theorem State.accessError_resL (s : State) (a : Access) (e : ErrorCode) :
    (s.accessError a e).resL = s.resL := by simp [State.accessError]
@[simp] theorem State.accessError_resTgt (s : State) (a : Access) (e : ErrorCode) :
    (s.accessError a e).resTgt = s.resTgt := by simp [State.accessError]
@[simp] theorem State.accessError_resSpd (s : State) (a : Access) (e : ErrorCode) :
    (s.accessError a e).resSpd = s.resSpd := by simp [State.accessError]
@[simp] theorem State.accessError_resEdge (s : State) (a : Access) (e : ErrorCode) :
    (s.accessError a e).resEdge = s.resEdge := by simp [State.accessError]
@[simp] theorem State.accessError_edgeLast (s : State) (a : Access) (e : ErrorCode) :
    (s.accessError a e).edgeLast = s.edgeLast := by simp [State.accessError]
@[simp] theorem State.accessError_lastAF (s : State) (a : Access) (e : ErrorCode) :
    (s.accessError a e).lastAF = s.lastAF := by simp [State.accessError]
@[simp] theorem State.accessError_lastBF (s : State) (a : Access) (e : ErrorCode) :
    (s.accessError a e).lastBF = s.lastBF := by simp [State.accessError]
@[simp] theorem State.accessError_lastAL (s : State) (a : Access) (e : ErrorCode) :
    (s.accessError a e).lastAL = s.lastAL := by simp [State.accessError]
@[simp] theorem State.accessError_lastBL (s : State) (a : Access) (e : ErrorCode) :
    (s.accessError a e).lastBL = s.lastBL := by simp [State.accessError]
@[simp] theorem State.accessError_pending (s : State) (a : Access) (e : ErrorCode) :
    (s.accessError a e).pending = s.pending := by simp [State.accessError]
@[simp] theorem State.accessError_status (s : State) (a : Access) (e : ErrorCode) :
    (s.accessError a e).status = s.status.record e := by simp [State.accessError]

end Sys2Proof.Machine
end

