-- ==== Sys2Proof/Laws/Ops.lean ====
section
/-! SUPPORT. For each shared operation, once, everything it can do: the lemmas that later proofs cite instead of
unfolding the operation. -/

namespace Sys2Proof.Machine

/-! ### One bit of a detector register -/

theorem setBit_getLsbD (x : BitVec 16) (n k : Nat) (b : Bool) (hn : n < 16) :
    (setBit x n b).getLsbD k = if k = n then b else x.getLsbD k := by
  unfold setBit
  by_cases hk : k < 16
  · have hsub : (k - n = 0 ∧ ¬k < n) ↔ k = n := by omega
    cases b <;> by_cases h : k = n <;>
      simp_all <;> omega
  · have hx : ∀ y : BitVec 16, y.getLsbD k = false := fun y => BitVec.getLsbD_of_ge y k (by omega)
    rw [hx, hx, if_neg (by omega)]

/-! ### EdgeObserve (rule R160) -/

theorem State.edgeObserve_edgeLast_bit (s : State) (n k : Nat) (raw : Bool) (hn : n < 16) :
    (s.edgeObserve n raw).edgeLast.getLsbD k = if k = n then raw else s.edgeLast.getLsbD k :=
  setBit_getLsbD _ _ _ _ hn

theorem State.edgeObserve_resEdge_bit (s : State) (n k : Nat) (raw : Bool) (hn : n < 16) :
    (s.edgeObserve n raw).resEdge.getLsbD k =
      if k = n then raw && !s.edgeLast.getLsbD n else s.resEdge.getLsbD k :=
  setBit_getLsbD _ _ _ _ hn

/-! ### The lever step (rule R137) -/

theorem State.observeTriggers_edgeLast_bit (s : State) (k : Nat) :
    s.observeTriggers.edgeLast.getLsbD k =
      if k = 1 then s.t1 else if k = 0 then s.t0 else s.edgeLast.getLsbD k := by
  unfold State.observeTriggers
  rw [State.edgeObserve_edgeLast_bit _ _ _ _ (by decide), State.edgeObserve_edgeLast_bit _ _ _ _ (by decide)]

theorem State.observeTriggers_resEdge_bit (s : State) (k : Nat) :
    s.observeTriggers.resEdge.getLsbD k =
      if k = 1 then s.edgeOutput 1 s.t1 else if k = 0 then s.edgeOutput 0 s.t0 else s.resEdge.getLsbD k := by
  unfold State.observeTriggers
  rw [State.edgeObserve_resEdge_bit _ _ _ _ (by decide), State.edgeObserve_resEdge_bit _ _ _ _ (by decide),
    State.edgeObserve_edgeLast_bit _ _ _ _ (by decide)]
  rfl

/-- The status a lever step leaves. -/
theorem State.leverStep_status (s : State) :
    s.leverStep.status =
      { s.status with
        lever := afterPosition s.cfg (afterTrigger s.status.lever s.trigger) s.argPos
        cmdv := true
        tacc := s.trigger && decide (s.status.lever = .idle)
        tign := s.trigger && decide (s.status.lever ≠ .idle) } := rfl

theorem State.leverStep_resTgt (s : State) :
    s.leverStep.resTgt = commandTarget s.cfg (afterTrigger s.status.lever s.trigger) s.argPos := by
  simp [State.leverStep, State.leverCommand]

theorem State.leverStep_resSpd (s : State) :
    s.leverStep.resSpd = commandSpeed s.cfg (afterTrigger s.status.lever s.trigger) s.argPos s.aux := by
  simp [State.leverStep, State.leverCommand, State.aux]

theorem State.leverStep_edgeLast (s : State) : s.leverStep.edgeLast = s.observeTriggers.edgeLast := rfl

theorem State.leverStep_resEdge (s : State) : s.leverStep.resEdge = s.observeTriggers.resEdge := rfl

/-! ### AxisStep (rule R103) -/

theorem State.axisStep_forward_of_valid (s : State) (h : s.sampleValid = true) :
    s.axisStep .forward =
      { s with
        lastAF := s.argA
        lastBF := s.argB
        resF := axisDistance s.cfg .forward (s.deltaA .forward) (s.deltaB .forward)
        status := { s.status with unavF := false } } := by
  unfold State.axisStep; rw [h]

theorem State.axisStep_lateral_of_valid (s : State) (h : s.sampleValid = true) :
    s.axisStep .lateral =
      { s with
        lastAL := s.argA
        lastBL := s.argB
        resL := axisDistance s.cfg .lateral (s.deltaA .lateral) (s.deltaB .lateral)
        status := { s.status with unavL := false } } := by
  unfold State.axisStep; rw [h]

theorem State.axisStep_forward_of_failed (s : State) (h : s.sampleValid = false) :
    s.axisStep .forward = { s with resF := qnan, status := { s.status with unavF := true } } := by
  unfold State.axisStep; rw [h]

theorem State.axisStep_lateral_of_failed (s : State) (h : s.sampleValid = false) :
    s.axisStep .lateral = { s with resL := qnan, status := { s.status with unavL := true } } := by
  unfold State.axisStep; rw [h]

@[simp] theorem State.axisStep_cfg (s : State) (i : AxisInst) : (s.axisStep i).cfg = s.cfg := by
  unfold State.axisStep; split <;> rfl

@[simp] theorem State.axisStep_argA (s : State) (i : AxisInst) : (s.axisStep i).argA = s.argA := by
  unfold State.axisStep; split <;> rfl

@[simp] theorem State.axisStep_argB (s : State) (i : AxisInst) : (s.axisStep i).argB = s.argB := by
  unfold State.axisStep; split <;> rfl

@[simp] theorem State.axisStep_argPos (s : State) (i : AxisInst) : (s.axisStep i).argPos = s.argPos := by
  unfold State.axisStep; split <;> rfl

@[simp] theorem State.axisStep_argIn (s : State) (i : AxisInst) : (s.axisStep i).argIn = s.argIn := by
  unfold State.axisStep; split <;> rfl

@[simp] theorem State.axisStep_resTgt (s : State) (i : AxisInst) : (s.axisStep i).resTgt = s.resTgt := by
  unfold State.axisStep; split <;> rfl

@[simp] theorem State.axisStep_resSpd (s : State) (i : AxisInst) : (s.axisStep i).resSpd = s.resSpd := by
  unfold State.axisStep; split <;> rfl

@[simp] theorem State.axisStep_resEdge (s : State) (i : AxisInst) : (s.axisStep i).resEdge = s.resEdge := by
  unfold State.axisStep; split <;> rfl

@[simp] theorem State.axisStep_edgeLast (s : State) (i : AxisInst) : (s.axisStep i).edgeLast = s.edgeLast := by
  unfold State.axisStep; split <;> rfl

@[simp] theorem State.axisStep_pending (s : State) (i : AxisInst) : (s.axisStep i).pending = s.pending := by
  unfold State.axisStep; split <;> rfl

@[simp] theorem State.axisStep_replies (s : State) (i : AxisInst) : (s.axisStep i).replies = s.replies := by
  unfold State.axisStep; split <;> rfl

/-- AxisStep changes no STATUS field but its own flag (rule R103). -/
theorem State.axisStep_status (s : State) (i : AxisInst) :
    (s.axisStep i).status =
      match i with
      | .forward => { s.status with unavF := !s.sampleValid }
      | .lateral => { s.status with unavL := !s.sampleValid } := by
  unfold State.axisStep
  cases s.sampleValid <;> cases i <;> rfl

@[simp] theorem State.axisStep_sampleValid (s : State) (i : AxisInst) :
    (s.axisStep i).sampleValid = s.sampleValid := by
  simp only [State.sampleValid, State.va, State.vb, State.axisStep_argIn]

@[simp] theorem State.axisStep_forward_resL (s : State) : (s.axisStep .forward).resL = s.resL := by
  unfold State.axisStep; cases s.sampleValid <;> rfl

@[simp] theorem State.axisStep_lateral_resF (s : State) : (s.axisStep .lateral).resF = s.resF := by
  unfold State.axisStep; cases s.sampleValid <;> rfl

@[simp] theorem State.axisStep_forward_lastAL (s : State) : (s.axisStep .forward).lastAL = s.lastAL := by
  unfold State.axisStep; cases s.sampleValid <;> rfl

@[simp] theorem State.axisStep_forward_lastBL (s : State) : (s.axisStep .forward).lastBL = s.lastBL := by
  unfold State.axisStep; cases s.sampleValid <;> rfl

@[simp] theorem State.axisStep_lateral_lastAF (s : State) : (s.axisStep .lateral).lastAF = s.lastAF := by
  unfold State.axisStep; cases s.sampleValid <;> rfl

@[simp] theorem State.axisStep_lateral_lastBF (s : State) : (s.axisStep .lateral).lastBF = s.lastBF := by
  unfold State.axisStep; cases s.sampleValid <;> rfl

theorem State.axisStep_forward_resF (s : State) :
    (s.axisStep .forward).resF =
      if s.sampleValid then axisDistance s.cfg .forward (s.deltaA .forward) (s.deltaB .forward) else qnan := by
  cases hv : s.sampleValid
  · rw [State.axisStep_forward_of_failed s hv]; rfl
  · rw [State.axisStep_forward_of_valid s hv]; rfl

theorem State.axisStep_lateral_resL (s : State) :
    (s.axisStep .lateral).resL =
      if s.sampleValid then axisDistance s.cfg .lateral (s.deltaA .lateral) (s.deltaB .lateral) else qnan := by
  cases hv : s.sampleValid
  · rw [State.axisStep_lateral_of_failed s hv]; rfl
  · rw [State.axisStep_lateral_of_valid s hv]; rfl

theorem State.axisStep_forward_last (s : State) :
    (s.axisStep .forward).lastAF = (if s.sampleValid then s.argA else s.lastAF) ∧
      (s.axisStep .forward).lastBF = (if s.sampleValid then s.argB else s.lastBF) := by
  unfold State.axisStep; cases s.sampleValid <;> exact ⟨rfl, rfl⟩

theorem State.axisStep_lateral_last (s : State) :
    (s.axisStep .lateral).lastAL = (if s.sampleValid then s.argA else s.lastAL) ∧
      (s.axisStep .lateral).lastBL = (if s.sampleValid then s.argB else s.lastBL) := by
  unfold State.axisStep; cases s.sampleValid <;> exact ⟨rfl, rfl⟩

/-- Both instances on one available sample (rule R112). -/
theorem State.axisStep_both_of_valid (s : State) (h : s.sampleValid = true) :
    (s.axisStep .forward).axisStep .lateral =
      { s with
        lastAF := s.argA
        lastBF := s.argB
        lastAL := s.argA
        lastBL := s.argB
        resF := axisDistance s.cfg .forward (s.deltaA .forward) (s.deltaB .forward)
        resL := axisDistance s.cfg .lateral (s.deltaA .lateral) (s.deltaB .lateral)
        status := { s.status with unavF := false, unavL := false } } := by
  rw [State.axisStep_lateral_of_valid _ (by simpa using h), State.axisStep_forward_of_valid s h]
  rfl

/-- Both instances on one failed sample (rules R104, R112). -/
theorem State.axisStep_both_of_failed (s : State) (h : s.sampleValid = false) :
    (s.axisStep .forward).axisStep .lateral =
      { s with resF := qnan, resL := qnan, status := { s.status with unavF := true, unavL := true } } := by
  rw [State.axisStep_lateral_of_failed _ (by simpa using h), State.axisStep_forward_of_failed s h]

/-! ### The commands as a whole -/

/-- What a command can do: every command answers a next state, and it is one of these. -/
theorem exec_cases (i : Instr) (s : State) :
    (i = .nop ∧ exec i s = .next s) ∨ (∃ ax, i = .axs ax ∧ exec i s = .next (s.axisStep ax)) ∨
      (i = .axs2 ∧ exec i s = .next ((s.axisStep .forward).axisStep .lateral)) ∨
      (∃ idx r, i = .edg idx r ∧ 2 ≤ idx.toNat ∧ idx.toNat < s.cfg.nedge ∧
        exec i s = .next (s.edgeObserve idx.toNat r)) ∨
      (∃ idx r, i = .edg idx r ∧ (idx.toNat < 2 ∨ s.cfg.nedge ≤ idx.toNat) ∧
        exec i s = .next (s.raise .illIdx)) ∨
      (i = .lvs ∧ exec i s = .next s.leverStep) ∨
      (i = .cyc ∧ exec i s = .next ((s.axisStep .forward).axisStep .lateral).leverStep) ∨
      (i = .rst ∧ exec i s = .next s.resetCore) := by
  cases i with
  | nop => exact .inl ⟨rfl, rfl⟩
  | axs ax => exact .inr (.inl ⟨ax, rfl, rfl⟩)
  | axs2 => exact .inr (.inr (.inl ⟨rfl, rfl⟩))
  | edg idx r =>
    by_cases h : idx.toNat < 2 ∨ s.cfg.nedge ≤ idx.toNat
    · exact .inr (.inr (.inr (.inr (.inl ⟨idx, r, rfl, h, if_pos h⟩))))
    · exact .inr (.inr (.inr (.inl ⟨idx, r, rfl, by omega, by omega, if_neg h⟩)))
  | lvs => exact .inr (.inr (.inr (.inr (.inr (.inl ⟨rfl, rfl⟩)))))
  | cyc => exact .inr (.inr (.inr (.inr (.inr (.inr (.inl ⟨rfl, rfl⟩))))))
  | rst => exact .inr (.inr (.inr (.inr (.inr (.inr (.inr ⟨rfl, rfl⟩))))))

/-! ### The bus -/

/-- The register at a register's own offset is that register (rule R21). -/
@[simp] theorem RegName.at_offset (r : RegName) : RegName.at r.offset = some r := by cases r <;> rfl

/-- A register found at an offset stands at that offset. -/
theorem RegName.offset_of_at {off : BitVec 8} {r : RegName} (h : RegName.at off = some r) : r.offset = off := by
  have := List.find?_some h
  simpa using this

/-- What a write to a register can do. -/
theorem State.writeReg_cases (s : State) (r : RegName) (v : Word) :
    (r = .cmd ∧ s.writeReg r v = s.command v) ∨
      (r = .argA ∧ s.writeReg r v = .next { s with argA := v.setWidth 32 }) ∨
      (r = .argB ∧ s.writeReg r v = .next { s with argB := v.setWidth 32 }) ∨
      (r = .argPos ∧ s.writeReg r v = .next { s with argPos := v }) ∨
      (r = .argIn ∧ s.writeReg r v = .next { s with argIn := v.setWidth 5 }) ∨
      s.writeReg r v = .next (s.raise .accRo) := by
  cases r <;> simp [State.writeReg]

/-- What an access can do, in the order of the checks of rule R185. -/
theorem State.perform_cases (s : State) (a : Access) :
    (a.wellFormed = false ∧ s.perform a = .next (s.accessError a .accForm)) ∨
      (a.wellFormed = true ∧ RegName.at a.off = none ∧ s.perform a = .next (s.accessError a .accRsv)) ∨
      (∃ r, a.wellFormed = true ∧ RegName.at a.off = some r ∧ a.op = .read ∧
        s.perform a = .next (s.answer a (s.readReg r))) ∨
      (∃ r v, a.wellFormed = true ∧ RegName.at a.off = some r ∧ a.op = .write v ∧
        s.perform a = s.writeReg r v) := by
  unfold State.perform
  cases hw : a.wellFormed
  · simp
  · cases hr : RegName.at a.off with
    | none => simp
    | some r => cases ho : a.op <;> simp

/-- What a step can do. -/
theorem step_cases (s : State) :
    (Config.legal s.cfg = false ∧ step s = .refused .illegalConfiguration) ∨
      (Config.legal s.cfg = true ∧ s.pending = [] ∧ step s = .next s) ∨
      (∃ e rest, Config.legal s.cfg = true ∧ s.pending = e :: rest ∧
        step s = (s.withPending rest).happen e) := by
  unfold step State.proceed State.advance
  cases hl : Config.legal s.cfg
  · simp
  · cases hp : s.pending with
    | nil => simp
    | cons e rest => simp

end Sys2Proof.Machine
end

