-- ==== Sys2Proof/Laws/Events.lean ====
section
/-! SUPPORT. What one event can do, once, in the terms of Safety.lean; and how a run of several events is taken apart. -/

namespace Sys2Proof.Machine

/-- The offset CMD stands at. -/
theorem RegName.at_zero {r : RegName} (h : RegName.at 0x00#8 = some r) : r = .cmd := by
  have : RegName.at 0x00#8 = some RegName.cmd := rfl
  rw [this] at h
  exact (Option.some.inj h).symm

theorem Access.wellFormed_width {a : Access} (h : a.wellFormed = true) : a.width = 8 := by
  simp only [Access.wellFormed, Bool.and_eq_true, beq_iff_eq] at h
  exact h.1

theorem Access.wellFormed_aligned {a : Access} (h : a.wellFormed = true) : a.off.toNat % 8 = 0 := by
  simp only [Access.wellFormed, Bool.and_eq_true, beq_iff_eq] at h
  exact h.2

/-- The effect of one event: a reset, an answered read, a recorded access error, a stored operand, a recorded illegal
command, or a command that is no reset. -/
inductive Effect (s : State) (e : Event) : Host.Outcome State Fault Refusal → Prop where
  | reset (h : e.isReset = true) : Effect s e (.next s.resetCore)
  | read (a : Access) (r : RegName) (he : e = .access a) (ho : a.op = .read) (hw : a.wellFormed = true)
      (hr : RegName.at a.off = some r) (hn : e.isReset = false) (hc : e.commandOf = none) :
      Effect s e (.next (s.answer a (s.readReg r)))
  | error (a : Access) (c : ErrorCode) (he : e = .access a) (hc : c.isIllegalCommand = false)
      (hn : e.isReset = false) (hc : e.commandOf = none) : Effect s e (.next (s.accessError a c))
  | argA (v : Word) (h : e.writesTo 0x10#8 = true) (hn : e.isReset = false) (hc : e.commandOf = none) :
      Effect s e (.next { s with argA := v.setWidth 32 })
  | argB (v : Word) (h : e.writesTo 0x18#8 = true) (hn : e.isReset = false) (hc : e.commandOf = none) :
      Effect s e (.next { s with argB := v.setWidth 32 })
  | argPos (ag : Agent) (v : Word) (h : e = .access ⟨ag, 0x20#8, 8, .write v⟩) (hn : e.isReset = false)
      (hc : e.commandOf = none) : Effect s e (.next { s with argPos := v })
  | argIn (v : Word) (h : e.writesTo 0x28#8 = true) (hn : e.isReset = false) (hc : e.commandOf = none) :
      Effect s e (.next { s with argIn := v.setWidth 5 })
  | illegal (d : DecodeError) (hn : e.isReset = false) (hc : e.commandOf = none) :
      Effect s e (.next (s.raise (errorOf d)))
  | command (i : Instr) (hc : e.commandOf = some i) (hi : i ≠ .rst) (hn : e.isReset = false) :
      Effect s e (exec i s)

theorem Event.isReset_eq_false {e : Event} (h1 : e ≠ .resetInput) (h2 : e.commandOf ≠ some .rst) : e.isReset = false := by
  unfold Event.isReset
  simp [h1, h2]

/-- A well-formed write to another offset than CMD's makes no command run. -/
theorem Event.commandOf_of_off (ag : Agent) (off : BitVec 8) (w : Nat) (op : AccessOp) (h : off ≠ 0x00#8) :
    (Event.access ⟨ag, off, w, op⟩).commandOf = none := by
  cases op with
  | read => rfl
  | write v => exact if_neg fun hc => h hc.2

theorem Event.commandOf_of_width (ag : Agent) (off : BitVec 8) (w : Nat) (op : AccessOp) (h : w ≠ 8) :
    (Event.access ⟨ag, off, w, op⟩).commandOf = none := by
  cases op with
  | read => rfl
  | write v => exact if_neg fun hc => h hc.1

theorem Event.commandOf_write_cmd (ag : Agent) (v : Word) :
    (Event.access ⟨ag, 0x00#8, 8, .write v⟩).commandOf =
      match decodeCommand v with
      | .ok i => some i
      | .error _ => none := by
  cases h : decodeCommand v <;> simp [Event.commandOf, h]

/-- Every event has one of the effects above. -/
theorem State.happen_effect (s : State) (e : Event) : Effect s e (s.happen e) := by
  cases e with
  | resetInput => exact .reset rfl
  | access a =>
    obtain ⟨ag, off, w, op⟩ := a
    have noReset : (Event.access ⟨ag, off, w, op⟩).commandOf = none →
        (Event.access ⟨ag, off, w, op⟩).isReset = false := fun h =>
      Event.isReset_eq_false (by simp) (by rw [h]; simp)
    show Effect s _ (s.perform ⟨ag, off, w, op⟩)
    rcases State.perform_cases s ⟨ag, off, w, op⟩ with ⟨hw, h⟩ | ⟨hw, hr, h⟩ | ⟨r, hw, hr, ho, h⟩ | ⟨r, v, hw, hr, ho, h⟩
    · have hc : (Event.access ⟨ag, off, w, op⟩).commandOf = none := by
        by_cases h8 : w = 8
        · refine Event.commandOf_of_off _ _ _ _ fun h0 => ?_
          subst h0 h8
          cases hw
        · exact Event.commandOf_of_width _ _ _ _ h8
      rw [h]
      exact .error _ _ rfl rfl (noReset hc) hc
    · have hc : (Event.access ⟨ag, off, w, op⟩).commandOf = none :=
        Event.commandOf_of_off _ _ _ _ fun h0 => by subst h0; cases hr
      rw [h]
      exact .error _ _ rfl rfl (noReset hc) hc
    · simp only at ho
      subst ho
      rw [h]
      exact .read _ r rfl rfl hw hr (noReset rfl) rfl
    · simp only at ho hr
      subst ho
      have hw8 : w = 8 := Access.wellFormed_width hw
      subst hw8
      have hoff := RegName.offset_of_at hr
      rw [h]
      clear h
      by_cases hcmd : r = .cmd
      · subst hcmd
        subst hoff
        show Effect s _ (s.command v)
        have hco := Event.commandOf_write_cmd ag v
        unfold State.command
        cases hd : decodeCommand v with
        | error d =>
          rw [hd] at hco
          exact .illegal d (noReset hco) hco
        | ok i =>
          rw [hd] at hco
          by_cases hi : i = .rst
          · subst hi
            exact .reset (by unfold Event.isReset; rw [show (Event.access ⟨ag, RegName.cmd.offset, 8, .write v⟩).commandOf = some .rst from hco]; rfl)
          · exact .command i hco hi
              (Event.isReset_eq_false (by simp) (by rw [show (Event.access ⟨ag, RegName.cmd.offset, 8, .write v⟩).commandOf = some i from hco]; simpa using hi))
      · have hne : off ≠ 0x00#8 := fun h0 => by
          subst h0
          exact hcmd (RegName.at_zero hr)
        have hc := Event.commandOf_of_off ag off 8 (.write v) hne
        rcases State.writeReg_cases s r v with ⟨h, _⟩ | ⟨rfl, h⟩ | ⟨rfl, h⟩ | ⟨rfl, h⟩ | ⟨rfl, h⟩ | h
        · exact absurd h hcmd
        · subst hoff; rw [h]; exact .argA v rfl (noReset hc) hc
        · subst hoff; rw [h]; exact .argB v rfl (noReset hc) hc
        · subst hoff; rw [h]; exact .argPos ag v rfl (noReset hc) hc
        · subst hoff; rw [h]; exact .argIn v rfl (noReset hc) hc
        · rw [h]
          exact .error ⟨ag, off, 8, .write v⟩ .accRo rfl rfl (noReset hc) hc

/-- A step that answers a next state ran in a legal configuration, and either nothing was to happen and nothing did, or
the first event had its effect. -/
theorem step_effect {s t : State} (h : step s = .next t) :
    Config.legal s.cfg = true ∧
      ((s.pending = [] ∧ t = s) ∨
        ∃ e rest, s.pending = e :: rest ∧ Effect (s.withPending rest) e (.next t)) := by
  rcases step_cases s with ⟨_, h'⟩ | ⟨hl, hp, h'⟩ | ⟨e, rest, hl, hp, h'⟩
  · rw [h'] at h; cases h
  · rw [h'] at h; cases h; exact ⟨hl, .inl ⟨hp, rfl⟩⟩
  · rw [h'] at h; exact ⟨hl, .inr ⟨e, rest, hp, h ▸ State.happen_effect _ e⟩⟩

/-- No event changes the configuration or the accesses to come. -/
theorem Effect.frame {s t : State} {e : Event} (h : Effect s e (.next t)) : t.pending = s.pending ∧ t.cfg = s.cfg := by
  generalize ho : Host.Outcome.next t = o at h
  cases h with
  | command i =>
    rcases exec_cases i s with ⟨_, h⟩ | ⟨ax, _, h⟩ | ⟨_, h⟩ | ⟨n, r, _, _, _, h⟩ | ⟨_, _, _, _, h⟩ | ⟨_, h⟩ | ⟨_, h⟩ |
        ⟨_, h⟩ <;> rw [h] at ho <;> cases ho <;>
      simp [State.leverStep, State.leverCommand, State.observeTriggers]
  | read => cases ho; unfold State.answer; split <;> simp
  | error => cases ho; unfold State.accessError State.answer; split <;> simp
  | _ => cases ho; simp

/-! ### What a legal configuration gives (rule R8) -/

theorem Config.nedge_of_legal {c : Config} (h : Config.legal c = true) : 2 ≤ c.nedge ∧ c.nedge ≤ 16 := by
  simp only [Config.legal, Config.detectorsLegal, Bool.and_eq_true, decide_eq_true_eq] at h
  exact h.2.2.2.2

theorem Config.speeds_of_legal {c : Config} (h : Config.legal c = true) :
    c.boost.toNat ≤ 127 ∧ c.fast.toNat ≤ 127 ∧ c.slow.toNat ≤ 127 ∧ c.hold.toNat ≤ 127 := by
  simp only [Config.legal, Config.speedsLegal, Config.speedLegal, Bool.and_eq_true, decide_eq_true_eq] at h
  exact h.2.2.2.1

/-! ### Runs -/

/-- A step that answers a next state takes the host's own run one step on, for any machine. -/
theorem core_run_of_next (M : Host.Core) (n : Nat) (s u : M.State) (h : M.step s = .next u) :
    M.run (n + 1) s = M.run n u := by
  rw [Host.Core.run, h]

/-- `Runs` is the host's own run. -/
theorem core_run_of_runs (n : Nat) :
    ∀ s t : State, Runs n s t → Host.Core.run Sys2Proof.core n s = .next t := by
  induction n with
  | zero => exact fun s t h => congrArg Host.Outcome.next h
  | succ n ih => exact fun s t ⟨u, hu, h⟩ => (core_run_of_next Sys2Proof.core n s u hu).trans (ih u t h)

/-- The first event of a run. -/
theorem step_withPending_cons (s : State) (e : Event) (es : List Event) (hl : Config.legal s.cfg = true) :
    step (s.withPending (e :: es)) = (s.withPending es).happen e := by
  rcases step_cases (s.withPending (e :: es)) with ⟨h, _⟩ | ⟨_, h, _⟩ | ⟨e', es', _, h, hs⟩
  · rw [State.withPending_cfg, hl] at h; cases h
  · cases h
  · cases h; exact hs

/-- The first event of a run in a legal configuration: the step answers a next state, which is `stepped` and which the
event's effect describes. -/
theorem stepped_withPending_cons (s : State) (e : Event) (es : List Event) (hl : Config.legal s.cfg = true) :
    ∃ t, (s.withPending es).happen e = .next t ∧ step (s.withPending (e :: es)) = .next t ∧
      (s.withPending (e :: es)).stepped = t ∧ Effect (s.withPending es) e (.next t) := by
  have h1 := step_withPending_cons s e es hl
  have h2 := State.happen_effect (s.withPending es) e
  cases h : (s.withPending es).happen e with
  | next t => exact ⟨t, rfl, h1.trans h, by unfold State.stepped; rw [h1, h], h ▸ h2⟩
  | fault r => cases r
  | refused r =>
    rw [h] at h2
    generalize ho : Host.Outcome.refused r = o at h2
    cases h2 with
    | command i =>
      rcases exec_cases i (s.withPending es) with ⟨_, h⟩ | ⟨ax, _, h⟩ | ⟨_, h⟩ | ⟨n, r, _, _, _, h⟩ | ⟨_, _, _, _, h⟩ |
          ⟨_, h⟩ | ⟨_, h⟩ | ⟨_, h⟩ <;> rw [h] at ho <;> cases ho
    | _ => cases ho

end Sys2Proof.Machine
end

