-- ==== Sys2Proof/Laws/Float64.lean ====
section
/-! SUPPORT. The small lemmas of the binary64 layout and of the rounding (rules R12, R65). -/

namespace Sys2Proof

theorem F64.round_le_infBits (num den : Nat) : F64.round num den ≤ F64.infBits := by
  unfold F64.round; split <;> omega

theorem F64.infBits_lt : F64.infBits < 2 ^ 63 := by decide

theorem F64.pack_toNat (neg : Bool) (p : Nat) (hp : p < 2 ^ 63) :
    (F64.pack neg p).toNat = (if neg then 2 ^ 63 else 0) + p := by
  unfold F64.pack
  rw [BitVec.toNat_ofNat, Nat.mod_eq_of_lt]
  split <;> omega

/-- Exponent and fraction bits of a packed value. -/
theorem F64.pack_toNat_mod (neg : Bool) (p : Nat) (hp : p < 2 ^ 63) : (F64.pack neg p).toNat % 2 ^ 63 = p := by
  rw [F64.pack_toNat neg p hp]
  split <;> omega

@[simp] theorem F64.sign_pack (neg : Bool) (p : Nat) (hp : p < 2 ^ 63) : F64.sign (F64.pack neg p) = neg := by
  unfold F64.sign
  rw [BitVec.getLsbD_eq_getElem (by decide), BitVec.getElem_eq_testBit_toNat, F64.pack_toNat neg p hp]
  cases neg
  · simp [Nat.testBit_lt_two_pow hp]
  · simp only [if_true]
    rw [Nat.testBit_two_pow_add_eq, Nat.testBit_lt_two_pow hp]
    rfl

@[simp] theorem F64.mag_pack (neg : Bool) (p : Nat) (hp : p < 2 ^ 63) : F64.mag (F64.pack neg p) = F64.unitsOf p := by
  unfold F64.mag
  rw [F64.pack_toNat_mod neg p hp]

/-- The rounding of a whole number of units below 2^53 is exact. -/
theorem F64.round_one_of_lt (n : Nat) (hn : n < 2 ^ 53) : F64.round n 1 = n := by
  have hlog : Nat.log2 n - 52 = 0 := by
    rcases Nat.eq_zero_or_pos n with h | h
    · subst h; decide
    · have := (Nat.log2_lt (by omega : n ≠ 0)).2 hn
      omega
  have hinf : F64.infBits = 2047 * 2 ^ 52 := rfl
  have hun : F64.unbounded n 1 = n := by
    unfold F64.unbounded F64.lastPlace F64.nearestEven
    simp [hlog, Nat.mod_one]
  unfold F64.round
  rw [hun, if_neg (by rw [hinf]; omega)]

/-- f64 of an integer, by its sign and magnitude. -/
theorem F64.ofInt_eq (n : Int) :
    F64.ofInt n = F64.pack (decide (n < 0)) (F64.round (2 ^ 1074 * n.natAbs) 1) := by
  cases n with
  | ofNat k =>
    have h : decide (Int.ofNat k < 0) = false := decide_eq_false (by simp)
    rw [h]
    rfl
  | negSucc k =>
    have h : decide (Int.negSucc k < 0) = true := decide_eq_true (Int.negSucc_lt_zero k)
    rw [h]
    rfl

/-! ### The classes of a value -/

theorem F64.isNaN_of_isFinite {x : F64} (h : F64.isFinite x = true) : F64.isNaN x = false := by
  simp only [F64.isFinite, bne_iff_ne] at h
  simp [F64.isNaN, h]

theorem F64.isInf_of_isFinite {x : F64} (h : F64.isFinite x = true) : F64.isInf x = false := by
  simp only [F64.isFinite, bne_iff_ne] at h
  simp [F64.isInf, h]

/-- A packed value is finite exactly when its bits are below infinity's. -/
theorem F64.isFinite_pack (neg : Bool) (p : Nat) (hp : p ≤ F64.infBits) :
    F64.isFinite (F64.pack neg p) = decide (p < F64.infBits) := by
  have hinf : F64.infBits = 2047 * 2 ^ 52 := rfl
  have he : F64.expo (F64.pack neg p) = p / 2 ^ 52 := by
    unfold F64.expo
    rw [F64.pack_toNat neg p (by omega)]
    cases neg <;> simp only [if_true, if_false, Bool.false_eq_true] <;> omega
  unfold F64.isFinite
  rw [he]
  by_cases h : p < F64.infBits
  · rw [decide_eq_true h, bne_iff_ne]
    omega
  · rw [decide_eq_false h, bne_eq_false_iff_eq]
    omega

/-- The signed value of a packed finite value. -/
theorem F64.units_pack (neg : Bool) (p : Nat) (hp : p < 2 ^ 63) :
    F64.units (F64.pack neg p) = if neg then -(F64.unitsOf p : Int) else F64.unitsOf p := by
  unfold F64.units
  rw [F64.sign_pack neg p hp, F64.mag_pack neg p hp]

theorem F64.neg_toNat_mod (x : F64) : (F64.neg x).toNat % 2 ^ 63 = x.toNat % 2 ^ 63 := by
  have hc : (0x8000000000000000#64).toNat = 2 ^ 63 := rfl
  unfold F64.neg
  rw [BitVec.toNat_xor, hc, Nat.xor_mod_two_pow, Nat.mod_self, Nat.xor_zero]

@[simp] theorem F64.sign_neg (x : F64) : F64.sign (F64.neg x) = !F64.sign x := by
  unfold F64.sign F64.neg
  rw [BitVec.getLsbD_xor]
  have : (0x8000000000000000#64).getLsbD 63 = true := by decide
  rw [this, Bool.xor_true]

@[simp] theorem F64.mag_neg (x : F64) : F64.mag (F64.neg x) = F64.mag x := by
  unfold F64.mag
  rw [F64.neg_toNat_mod]

@[simp] theorem F64.units_neg (x : F64) : F64.units (F64.neg x) = -F64.units x := by
  unfold F64.units
  rw [F64.sign_neg, F64.mag_neg]
  cases F64.sign x <;> simp

@[simp] theorem F64.isInf_neg (x : F64) : F64.isInf (F64.neg x) = F64.isInf x := by
  have h := F64.neg_toNat_mod x
  have he : F64.expo (F64.neg x) = F64.expo x := by unfold F64.expo; omega
  have hf : F64.frac (F64.neg x) = F64.frac x := by unfold F64.frac; omega
  unfold F64.isInf
  rw [he, hf]

/-! ### The operations of rule R12 on finite operands -/

theorem F64.mul_of_finite {x y : F64} (hx : F64.isFinite x = true) (hy : F64.isFinite y = true) :
    F64.mul x y = F64.pack (F64.sign x != F64.sign y) (F64.round (F64.mag x * F64.mag y) (2 ^ 1074)) := by
  unfold F64.mul
  rw [F64.isNaN_of_isFinite hx, F64.isNaN_of_isFinite hy, F64.isInf_of_isFinite hx, F64.isInf_of_isFinite hy,
    Bool.or_false, if_neg Bool.false_ne_true, if_neg Bool.false_ne_true]

theorem F64.div_of_finite {x y : F64} (hx : F64.isFinite x = true) (hy : F64.isFinite y = true)
    (h0 : F64.mag y ≠ 0) :
    F64.div x y = F64.pack (F64.sign x != F64.sign y) (F64.round (2 ^ 1074 * F64.mag x) (F64.mag y)) := by
  unfold F64.div
  rw [F64.isNaN_of_isFinite hx, F64.isNaN_of_isFinite hy, F64.isInf_of_isFinite hx, F64.isInf_of_isFinite hy,
    Bool.or_false, if_neg Bool.false_ne_true, if_neg Bool.false_ne_true, if_neg Bool.false_ne_true, if_neg h0]

theorem F64.add_of_finite {x y : F64} (hx : F64.isFinite x = true) (hy : F64.isFinite y = true) :
    F64.add x y =
      if F64.units x + F64.units y = 0 then F64.zero (F64.sign x && F64.sign y)
      else F64.pack (decide (F64.units x + F64.units y < 0)) (F64.round (F64.units x + F64.units y).natAbs 1) := by
  unfold F64.add F64.sum
  rw [F64.isNaN_of_isFinite hx, F64.isNaN_of_isFinite hy, F64.isInf_of_isFinite hx, F64.isInf_of_isFinite hy,
    Bool.or_false, if_neg Bool.false_ne_true, if_neg Bool.false_ne_true, if_neg Bool.false_ne_true]

theorem F64.sub_of_finite {x y : F64} (hx : F64.isFinite x = true) (hy : F64.isFinite y = true) :
    F64.sub x y =
      if F64.units x - F64.units y = 0 then F64.zero (F64.sign x && !F64.sign y)
      else F64.pack (decide (F64.units x - F64.units y < 0)) (F64.round (F64.units x - F64.units y).natAbs 1) := by
  unfold F64.sub F64.sum
  rw [F64.isNaN_of_isFinite hx, F64.isNaN_of_isFinite hy, F64.isInf_of_isFinite hx, F64.isInf_neg,
    F64.isInf_of_isFinite hy, F64.units_neg, F64.sign_neg,
    Bool.or_false, if_neg Bool.false_ne_true, if_neg Bool.false_ne_true, if_neg Bool.false_ne_true, ← Int.sub_eq_add_neg]

/-! ### The comparisons of rule R12 -/

theorem F64.le_nan_left {x : F64} (h : F64.isNaN x = true) (y : F64) : F64.le x y = false := by simp [F64.le, h]

theorem F64.ge_nan_left {x : F64} (h : F64.isNaN x = true) (y : F64) : F64.ge x y = false := by simp [F64.ge, h]

theorem F64.le_eq_true {x y : F64} :
    F64.le x y = true ↔ F64.isNaN x = false ∧ F64.isNaN y = false ∧ F64.key x ≤ F64.key y := by
  simp [F64.le, and_assoc]

theorem F64.ge_eq_true {x y : F64} :
    F64.ge x y = true ↔ F64.isNaN x = false ∧ F64.isNaN y = false ∧ F64.key y ≤ F64.key x := by
  simp [F64.ge, and_assoc]

/-! ### The rounding is monotone -/

/-- A value that is not subnormal, by its binade and its significand. -/
theorem F64.unitsOf_eq (k m : Nat) (hm : 2 ^ 52 ≤ m) (hm' : m < 2 ^ 53) :
    F64.unitsOf (2 ^ 52 * k + m) = m * 2 ^ k := by
  unfold F64.unitsOf
  have h1 : (2 ^ 52 * k + m) / 2 ^ 52 = k + 1 := by omega
  have h2 : (2 ^ 52 * k + m) % 2 ^ 52 = m - 2 ^ 52 := by omega
  rw [h1, h2, if_neg (by omega), Nat.add_sub_cancel, Nat.add_sub_cancel' hm]

/-- Below 2^53 the exponent and fraction bits are the magnitude itself. -/
theorem F64.unitsOf_of_lt (p : Nat) (hp : p < 2 ^ 53) : F64.unitsOf p = p := by
  by_cases h : p < 2 ^ 52
  · unfold F64.unitsOf
    rw [if_pos (by omega)]; omega
  · have := F64.unitsOf_eq 0 p (by omega) hp
    simpa using this

/-- The binade of a number that is not subnormal. -/
theorem F64.binade (p : Nat) (hp : 2 ^ 52 ≤ p) : ∃ k m, 2 ^ 52 ≤ m ∧ m < 2 ^ 53 ∧ p = 2 ^ 52 * k + m :=
  ⟨p / 2 ^ 52 - 1, 2 ^ 52 + p % 2 ^ 52, by omega, by omega, by omega⟩

/-- Rounding to an integer does not cross an integer. -/
theorem F64.nearestEven_bounds (num den m : Nat) (hd : 0 < den) :
    (m * den ≤ num → m ≤ F64.nearestEven num den) ∧ (num ≤ m * den → F64.nearestEven num den ≤ m) := by
  have h1 : den * (num / den) + num % den = num := Nat.div_add_mod num den
  have h2 := Nat.mod_lt num hd
  have key : m * den ≤ num → m ≤ num / den := fun h => (Nat.le_div_iff_mul_le hd).2 h
  unfold F64.nearestEven
  constructor
  · intro h
    have := key h
    split <;> omega
  · intro h
    have hle : num / den ≤ m := Nat.div_le_of_le_mul (by rw [Nat.mul_comm]; exact h)
    split
    · rename_i hc
      have hpos : 0 < num % den := by
        simp only [Bool.or_eq_true, Bool.and_eq_true, decide_eq_true_eq, beq_iff_eq] at hc
        omega
      rcases Nat.lt_or_ge (num / den) m with hlt | hge
      · omega
      · have : m = num / den := by omega
        rw [this, Nat.mul_comm] at h
        omega
    · exact hle

/-- Rounding a whole number of units does not cross a binary64 magnitude. -/
theorem F64.unbounded_bounds (q p : Nat) :
    (F64.unitsOf p ≤ q → p ≤ F64.unbounded q 1) ∧ (q ≤ F64.unitsOf p → F64.unbounded q 1 ≤ p) := by
  rcases Nat.lt_or_ge q (2 ^ 53) with hq | hq
  · have hu : F64.unbounded q 1 = q := by
      have hlog : Nat.log2 q - 52 = 0 := by
        rcases Nat.eq_zero_or_pos q with h | h
        · subst h; decide
        · have := (Nat.log2_lt (by omega : q ≠ 0)).2 hq
          omega
      unfold F64.unbounded F64.lastPlace F64.nearestEven
      simp [hlog, Nat.mod_one]
    rw [hu]
    rcases Nat.lt_or_ge p (2 ^ 53) with hp | hp
    · rw [F64.unitsOf_of_lt p hp]; exact ⟨id, id⟩
    · obtain ⟨k, m, h1, h2, rfl⟩ := F64.binade p (by omega)
      rw [F64.unitsOf_eq k m h1 h2]
      have hk : 1 ≤ k := by omega
      have : 2 ^ 1 ≤ 2 ^ k := Nat.pow_le_pow_right (by decide) hk
      have h3 : m * 2 ≤ m * 2 ^ k := Nat.mul_le_mul_left m this
      constructor <;> intro h <;> omega
  · have hq0 : q ≠ 0 := by omega
    obtain ⟨k, hk⟩ : ∃ k, Nat.log2 q = 52 + k := ⟨Nat.log2 q - 52, by
      have : 52 < Nat.log2 q + 1 := by
        have := (Nat.le_log2 hq0 (k := 53)).2 hq
        omega
      omega⟩
    have hlo : 2 ^ (52 + k) ≤ q := by rw [← hk]; exact Nat.log2_self_le hq0
    have hhi : q < 2 ^ (52 + k + 1) := by rw [← hk]; exact Nat.lt_log2_self
    have hlp : F64.lastPlace q 1 = k := by unfold F64.lastPlace; rw [Nat.div_one, hk]; omega
    have hpk : 0 < 2 ^ k := Nat.two_pow_pos k
    have hb := F64.nearestEven_bounds q (2 ^ k)
    have e1 : 2 ^ (52 + k) = 2 ^ 52 * 2 ^ k := Nat.pow_add 2 52 k
    have e2 : 2 ^ (52 + k + 1) = 2 ^ 53 * 2 ^ k := by rw [← Nat.pow_add]; congr 1; omega
    have n1 := (hb (2 ^ 52) hpk).1 (by omega)
    have n2 := (hb (2 ^ 53) hpk).2 (by omega)
    unfold F64.unbounded
    rw [hlp, Nat.one_mul]
    generalize F64.nearestEven q (2 ^ k) = r at *
    rcases Nat.lt_or_ge p (2 ^ 52) with hp | hp
    · rw [F64.unitsOf_of_lt p (by omega)]
      have : 2 ^ 52 * 1 ≤ 2 ^ 52 * 2 ^ k := Nat.mul_le_mul_left _ hpk
      constructor <;> intro h <;> omega
    · obtain ⟨j, m, h1, h2, rfl⟩ := F64.binade p hp
      rw [F64.unitsOf_eq j m h1 h2]
      rcases Nat.lt_trichotomy j k with hj | rfl | hj
      · have h3 : 2 ^ (j + 1) ≤ 2 ^ k := Nat.pow_le_pow_right (by decide) hj
        have h4 : m * 2 ^ j < 2 ^ 53 * 2 ^ j := Nat.mul_lt_mul_of_pos_right h2 (Nat.two_pow_pos j)
        have h5 : 2 ^ 53 * 2 ^ j = 2 ^ 52 * 2 ^ (j + 1) := by rw [Nat.pow_succ]; ring
        have h6 : 2 ^ 52 * 2 ^ (j + 1) ≤ 2 ^ 52 * 2 ^ k := Nat.mul_le_mul_left _ h3
        constructor <;> intro h <;> omega
      · have := hb m hpk
        constructor <;> intro h
        · have := this.1 h; omega
        · have := this.2 h; omega
      · have h3 : 2 ^ (k + 1) ≤ 2 ^ j := Nat.pow_le_pow_right (by decide) hj
        have h4 : 2 ^ 52 * 2 ^ j ≤ m * 2 ^ j := Nat.mul_le_mul_right _ h1
        have h5 : 2 ^ 53 * 2 ^ k = 2 ^ 52 * 2 ^ (k + 1) := by rw [Nat.pow_succ]; ring
        have h6 : 2 ^ 52 * 2 ^ (k + 1) ≤ 2 ^ 52 * 2 ^ j := Nat.mul_le_mul_left _ h3
        constructor <;> intro h <;> omega

/-- A finite magnitude at most q is at most the rounding of q. -/
theorem F64.le_round (q p : Nat) (hp : p < F64.infBits) (h : F64.unitsOf p ≤ q) : p ≤ F64.round q 1 := by
  have := (F64.unbounded_bounds q p).1 h
  unfold F64.round; split <;> omega

/-- A finite magnitude at least q is at least the rounding of q. -/
theorem F64.round_le (q p : Nat) (hp : p < F64.infBits) (h : q ≤ F64.unitsOf p) : F64.round q 1 ≤ p := by
  have := (F64.unbounded_bounds q p).2 h
  unfold F64.round; split <;> omega

/-- The exponent and fraction bits of a finite value are below infinity's. -/
theorem F64.bits_lt {a : F64} (h : F64.isFinite a = true) : a.toNat % 2 ^ 63 < F64.infBits := by
  have hinf : F64.infBits = 2047 * 2 ^ 52 := rfl
  simp only [F64.isFinite, F64.expo, bne_iff_ne] at h
  omega

end Sys2Proof
end

