-- ==== Sys2Proof/Laws/PerInstr.lean ====
section
/-! SUPPORT. A statement about every command as syntax, proved command by command: its word has nothing above bit 12, the
highest field bit of any format (rules R82 to R84). -/

namespace Sys2Proof

def Laws.ShortWord.Statement (i : Instr) : Prop := (encode i).toNat < 2 ^ 13

theorem Laws.ShortWord.nop : Laws.ShortWord.Statement .nop := by unfold Laws.ShortWord.Statement; decide

theorem Laws.ShortWord.axs (ax : AxisInst) : Laws.ShortWord.Statement (.axs ax) := by
  unfold Laws.ShortWord.Statement
  cases ax <;> decide

theorem Laws.ShortWord.axs2 : Laws.ShortWord.Statement .axs2 := by unfold Laws.ShortWord.Statement; decide

theorem Laws.ShortWord.edg (idx : BitVec 4) (r : Bool) : Laws.ShortWord.Statement (.edg idx r) := by
  unfold Laws.ShortWord.Statement
  revert idx r
  decide

theorem Laws.ShortWord.lvs : Laws.ShortWord.Statement .lvs := by unfold Laws.ShortWord.Statement; decide

theorem Laws.ShortWord.cyc : Laws.ShortWord.Statement .cyc := by unfold Laws.ShortWord.Statement; decide

theorem Laws.ShortWord.rst : Laws.ShortWord.Statement .rst := by unfold Laws.ShortWord.Statement; decide

end Sys2Proof
end

