-- ==== Sys2Proof/Tests/Slice0.lean ====
section
/-! SUPPORT. Tests: the well-formedness checks, words written out from the encodings of 30_encoding.md, one-step vectors of
95_test_vectors.md, and for every statement with hypotheses a state and operands that meet them. -/

namespace Sys2Proof.Tests

open Sys2Proof.Machine

/-! ### Well-formedness (rules R84, R87) -/

theorem test_wellFormed_accepts :
    Instr.wellFormed 4 .nop = true ∧ Instr.wellFormed 4 (.axs .forward) = true ∧ Instr.wellFormed 4 .axs2 = true ∧
      Instr.wellFormed 4 (.edg 2#4 true) = true ∧ Instr.wellFormed 4 (.edg 3#4 false) = true ∧
      Instr.wellFormed 4 .lvs = true ∧ Instr.wellFormed 4 .cyc = true ∧ Instr.wellFormed 4 .rst = true := by decide

/-- Detectors 0 and 1 are the lever's own. -/
theorem test_wellFormed_refuses_lever_detector :
    Instr.wellFormed 4 (.edg 0#4 true) = false ∧ Instr.wellFormed 4 (.edg 1#4 false) = false := by decide

/-- The index is below NEDGE. -/
theorem test_wellFormed_refuses_absent_detector :
    Instr.wellFormed 4 (.edg 4#4 true) = false ∧ Instr.wellFormed 2 (.edg 2#4 true) = false ∧
      Instr.wellFormed 16 (.edg 15#4 true) = true := by decide

/-! ### Decoding: words written out from rules R82 to R84 -/

/-- Format N: OP in bits 7:0, bits 63:8 zero. -/
theorem test_decode_format_N :
    decodeCommand 0b00000000#64 = .ok .nop ∧ decodeCommand 0b00000010#64 = .ok .axs2 ∧
      decodeCommand 0b00000100#64 = .ok .lvs ∧ decodeCommand 0b00000101#64 = .ok .cyc ∧
      decodeCommand 0b10100101#64 = .ok .rst := ⟨rfl, rfl, rfl, rfl, rfl⟩

/-- Format X: AX in bit 8. -/
theorem test_decode_format_X :
    decodeCommand 0b0_00000001#64 = .ok (.axs .forward) ∧ decodeCommand 0b1_00000001#64 = .ok (.axs .lateral) :=
  ⟨rfl, rfl⟩

/-- Format E: R in bit 12, IDX in bits 11:8. -/
theorem test_decode_format_E :
    decodeCommand 0b0_0010_00000011#64 = .ok (.edg 2#4 false) ∧
      decodeCommand 0b1_0010_00000011#64 = .ok (.edg 2#4 true) ∧
      decodeCommand 0b1_1101_00000011#64 = .ok (.edg 13#4 true) := ⟨rfl, rfl, rfl⟩

/-- Rule R87: an unlisted OP, and a reserved bit of each format. -/
theorem test_decode_refuses :
    decodeCommand 0x06#64 = .error .unknownOp ∧ decodeCommand 0xFFFFFFFFFFFFFFFF#64 = .error .unknownOp ∧
      decodeCommand 0x100#64 = .error .reservedBits ∧ decodeCommand 0x201#64 = .error .reservedBits ∧
      decodeCommand 0x2003#64 = .error .reservedBits ∧ decodeCommand 0x80000000000000A5#64 = .error .reservedBits :=
  ⟨rfl, rfl, rfl, rfl, rfl, rfl⟩

theorem test_encode :
    encode .nop = 0x0#64 ∧ encode (.axs .lateral) = 0x101#64 ∧ encode .axs2 = 0x2#64 ∧
      encode (.edg 3#4 true) = 0x1303#64 ∧ encode .lvs = 0x4#64 ∧ encode .cyc = 0x5#64 ∧ encode .rst = 0xA5#64 := by
  decide

theorem test_decodeTableWord :
    decodeTableWord 64 0x101 = some (.axs .lateral) ∧ decodeTableWord 64 0x06 = none ∧
      decodeTableWord 8 0xA5 = some .rst := by decide

/-! ### One step -/

/-- A field of the state an outcome answers. -/
def after {α : Type} (o : Host.Outcome State Fault Refusal) (f : State → α) : Option α :=
  match o with
  | .next s => some (f s)
  | .fault _ => none
  | .refused _ => none

/-- After reset, with the operands given. -/
def operands (a b : BitVec 32) (inputs : BitVec 5) (p : F64) : State :=
  { State.reset with argA := a, argB := b, argIn := inputs, argPos := p }

/-- After reset, with the host's write of a command word to come. -/
def ready (v : Word) : State := State.reset.withPending [Event.command v]

/-- After reset, with the lever in a state and a position. -/
def lever (st : LeverState) (inputs : BitVec 5) (p : F64) : State :=
  { State.reset with status := { Status.reset with lever := st, cmdv := true }, argIn := inputs, argPos := p }

/-- A core whose configuration has no detector 1: illegal by rule R8. -/
def illegal : State := { State.reset with cfg := { Config.default with nedge := 1 } }

/-- The placed word is the next thing that happens. -/
theorem test_withFetchWord_runs_rst : step (State.reset.withFetchWord 64 0xA5) = .next State.reset := rfl

/-- Rule R170. -/
theorem test_nop : exec .nop State.reset = .next State.reset := rfl

/-- Vector A1: one revolution on channel A. -/
theorem test_axs_forward_A1 :
    after (exec (.axs .forward) (operands 8192#32 0#32 3#5 0#64)) (fun t => (t.resF, t.status.toWord, t.lastAF)) =
      some (0x4011C5831ADD62E4#64, 0x2#64, 8192#32) := by decide +kernel

/-- Vector A2: one revolution on channel B, lateral. -/
theorem test_axs_lateral_A2 :
    after (exec (.axs .lateral) (operands 0#32 8192#32 3#5 0#64)) (fun t => (t.resL, t.status.toWord, t.lastAF)) =
      some (0xC011C5831ADD62E4#64, 0x1#64, 0#32) := by decide +kernel

/-- Vector A11: general rounding, both instances. -/
theorem test_axs2_A11 :
    after (exec .axs2 (operands 100#32 37#32 3#5 0#64)) (fun t => (t.resF, t.resL, t.status.toWord)) =
      some (0x3FB3056652C0F3D8#64, 0x3FA17E6D0E71ED58#64, 0#64) := by decide +kernel

/-- Vector A12: the counter's wrap is not unwrapped. -/
theorem test_axs2_A12 :
    after (exec .axs2 { operands 0x80000000#32 0#32 3#5 0#64 with lastAF := 0x7FFFFFFF#32, lastAL := 0x7FFFFFFF#32 })
        (fun t => (t.resF, t.resL)) =
      some (0xC141C5831ACB9D61#64, 0xC141C5831ACB9D61#64) := by decide +kernel

/-- Section 1.4, index 2 and 3: a rising sample emits an edge, a held one does not. -/
theorem test_edg_rising_then_held :
    after (exec (.edg 2#4 true) State.reset) (fun t => (t.resEdge, t.edgeLast)) = some (4#16, 4#16) ∧
      after (exec (.edg 2#4 true) { State.reset with edgeLast := 4#16, resEdge := 4#16 })
        (fun t => (t.resEdge, t.edgeLast)) = some (0#16, 4#16) := by decide

/-- Rule R162 with rule R180: detector 1 is the lever's, ECODE 3. -/
theorem test_edg_illegal_index :
    after (exec (.edg 1#4 true) State.reset) (fun t => (t.status.toWord, t.edgeLast)) = some (0x3083#64, 0#16) := by decide

/-- Vector L9: trigger and position transition in one step. -/
theorem test_lvs_L9 :
    after (exec .lvs (operands 0#32 0#32 7#5 0x4070D00000000000#64))
        (fun t => (t.status.toWord, t.resTgt, t.resSpd)) =
      some (0x3F#64, 0x4070E00000000000#64, 127#8) := by decide +kernel

/-- Vector L26: just above the retract threshold. -/
theorem test_lvs_L26 :
    after (exec .lvs (lever .retracting 19#5 0x4000000000000001#64)) (fun t => (t.status.toWord, t.resTgt, t.resSpd)) =
      some (0x1F#64, 0#64, 70#8) := by decide +kernel

/-- Rule R171: the sample of A1 and the lever step of L6 in one command. -/
theorem test_cyc :
    after (exec .cyc (operands 8192#32 0#32 7#5 0#64)) (fun t => (t.resF, t.status.toWord, t.resSpd)) =
      some (0x4011C5831ADD62E4#64, 0x34#64, 127#8) := by decide +kernel

/-- Rule R200. -/
theorem test_rst : exec .rst (lever .extending 31#5 0x3FF0000000000000#64) = .next State.reset := rfl

/-! ### The configurations (rule R8) -/

theorem test_default_configuration_legal : State.reset.cfg.legal = true := by decide

/-- Each constraint of rule R8 refuses. -/
theorem test_configurations_refused :
    Config.legal { Config.default with tpr := 0 } = false ∧
      Config.legal { Config.default with tpr := 2 ^ 31 } = false ∧
      Config.legal { Config.default with wdF := 0#64 } = false ∧
      Config.legal { Config.default with wdL := qnan } = false ∧
      Config.legal { Config.default with eps := 0xC000000000000000#64 } = false ∧
      Config.legal { Config.default with lmax := 0#64 } = false ∧
      Config.legal { Config.default with boost := 128#8 } = false ∧
      Config.legal { Config.default with nedge := 17 } = false := by decide

/-! ### Witnesses: a state and operands that meet the hypotheses of each statement that has any -/

theorem test_witness_StepRunsDecodedCommand :
    State.reset.cfg.legal = true ∧
      (State.reset.withPending [.access ⟨.reporter, 0x00#8, 8, .write 0x1303#64⟩]).pending =
        .access ⟨.reporter, 0x00#8, 8, .write 0x1303#64⟩ :: [] ∧
      decodeCommand 0x1303#64 = .ok (.edg 3#4 true) := ⟨by decide, rfl, rfl⟩

theorem test_witness_LegalWordsExactly : 2 ≤ 2 ∧ 2 ≤ 16 ∧ 2 ≤ 16 ∧ 16 ≤ 16 := by decide

/-- One word for each clause, and for the last one at both ends of the legal indexes. -/
theorem test_witness_IllegalCommandOnlyRecorded :
    State.reset.cfg.legal = true ∧ (ready 0x06#64).pending = [.access ⟨.host, 0x00#8, 8, .write 0x06#64⟩] ∧
      (0x06#64).toNat % 256 ∉ [0x00, 0x01, 0x02, 0x03, 0x04, 0x05, 0xA5] ∧
      (0x100#64).toNat % 256 ∈ [0x00, 0x02, 0x04, 0x05, 0xA5] ∧ 2 ^ 8 ≤ (0x100#64).toNat ∧
      (0x201#64).toNat % 256 = 0x01 ∧ 2 ^ 9 ≤ (0x201#64).toNat ∧
      (0x2003#64).toNat % 256 = 0x03 ∧ 2 ^ 13 ≤ (0x2003#64).toNat ∧
      (0x0103#64).toNat % 256 = 0x03 ∧ (0x0103#64).toNat < 2 ^ 13 ∧ (0x0103#64).toNat / 2 ^ 8 % 16 < 2 ∧
      (0x0403#64).toNat % 256 = 0x03 ∧ (0x0403#64).toNat < 2 ^ 13 ∧
      State.reset.cfg.nedge ≤ (0x0403#64).toNat / 2 ^ 8 % 16 := by decide

theorem test_witness_ResetInputActsAsRst :
    State.reset.cfg.legal = true ∧ (State.reset.withPending [.resetInput]).pending = .resetInput :: [] := by decide

/-- The state after a step from reset meets the invariant's premise. -/
theorem test_witness_EveryStepKeepsInvariant :
    State.reset.Inv ∧ step (ready 0x1203#64) = .next { State.reset with edgeLast := 4#16, resEdge := 4#16 } :=
  ⟨by decide, rfl⟩

/-- An available sample: VA and VB both 1. -/
theorem test_witness_sample_available :
    (operands 5#32 6#32 3#5 0#64).argIn.getLsbD 0 = true ∧ (operands 5#32 6#32 3#5 0#64).argIn.getLsbD 1 = true := by
  decide

theorem test_witness_FailedReadReportsUnavailable :
    (operands 5#32 6#32 2#5 0#64).argIn.getLsbD 0 = false ∧ (operands 5#32 6#32 1#5 0#64).argIn.getLsbD 1 = false := by
  decide

/-- The lowest and the highest legal index at NEDGE 4. -/
theorem test_witness_EdgObservesOneDetector :
    2 ≤ (2#4).toNat ∧ (2#4).toNat < State.reset.cfg.nedge ∧ 2 ≤ (3#4).toNat ∧
      (3#4).toNat < State.reset.cfg.nedge := by decide

theorem test_witness_LeverHoldsWhileIdle :
    State.reset.status.lever = .idle ∧ State.reset.triggerEdge = false := by decide

theorem test_witness_TriggerStartsExtending :
    (operands 0#32 0#32 4#5 0#64).status.lever = .idle ∧ (operands 0#32 0#32 4#5 0#64).triggerEdge = true ∧
      (operands 0#32 0#32 8#5 0#64).triggerEdge = true := by decide

theorem test_witness_LeverExtends : (lever .extending 4#5 0#64).status.lever = .extending := by decide

theorem test_witness_LeverRetracts : (lever .retracting 0#5 0#64).status.lever = .retracting := by decide

theorem test_witness_ReadsReturnTheRegisterMap :
    State.reset.cfg.legal = true ∧ (0x80, 0x104#64) ∈ registerMap State.reset ∧
      (State.reset.withPending [.access ⟨.reporter, BitVec.ofNat 8 0x80, 8, .read⟩]).pending =
        .access ⟨.reporter, BitVec.ofNat 8 0x80, 8, .read⟩ :: [] :=
  ⟨by decide, by simp [registerMap, State.reset, Config.default], rfl⟩

/-- One write for each clause. -/
theorem test_witness_WritesStoreOperands :
    (State.reset.withPending [Event.write .argA 1#64]).pending = [.access ⟨.host, 0x10#8, 8, .write 1#64⟩] ∧
      (State.reset.withPending [Event.write .argB 1#64]).pending = [.access ⟨.host, 0x18#8, 8, .write 1#64⟩] ∧
      (State.reset.withPending [Event.write .argPos 1#64]).pending = [.access ⟨.host, 0x20#8, 8, .write 1#64⟩] ∧
      (State.reset.withPending [Event.write .argIn 1#64]).pending = [.access ⟨.host, 0x28#8, 8, .write 1#64⟩] := by
  decide

/-- A half-word read, and misaligned accesses at both ends of the window. -/
theorem test_witness_MalformedAccessOnlyRecorded :
    (⟨.host, 0x08#8, 4, .read⟩ : Access).width ≠ 8 ∧ (⟨.host, 0x01#8, 8, .read⟩ : Access).off.toNat % 8 ≠ 0 ∧
      (⟨.host, 0xFF#8, 8, .write 0#64⟩ : Access).off.toNat % 8 ≠ 0 := by decide

/-- The first and the last reserved offset. -/
theorem test_witness_ReservedOffsetOnlyRecorded :
    (0xE0#8).toNat ∈ [0xE0, 0xE8, 0xF0, 0xF8] ∧ (0xF8#8).toNat ∈ [0xE0, 0xE8, 0xF0, 0xF8] := by decide

/-- STATUS, and the first and the last of the other read-only registers. -/
theorem test_witness_ReadOnlyWriteOnlyRecorded :
    (0x08#8).toNat = 0x08 ∧ (0x08#8).toNat % 8 = 0 ∧ (0x30#8).toNat % 8 = 0 ∧ 0x30 ≤ (0x30#8).toNat ∧
      (0xD8#8).toNat % 8 = 0 ∧ (0xD8#8).toNat < 0xE0 := by decide

/-- The highest bit of the highest byte. -/
theorem test_witness_BytesAreLittleEndian : 7 < 8 ∧ (byteOf 0x8000000000000000#64 7).getLsbD 7 = true := by decide

theorem test_witness_CycleLineRunsOneCycle : State.reset.cfg.legal = true ∧ State.reset.pending = [] := by decide

theorem test_witness_EveryEventCompletes :
    (State.reset.withPending [Event.read .status]).cfg.legal = true ∧
      (State.reset.withPending [Event.read .status]).nextEvent = some (.access ⟨.host, 0x08#8, 8, .read⟩) := by decide

theorem test_illegal_configuration_refused : step illegal = .refused .illegalConfiguration := rfl

theorem test_witness_ConfigurationNeverChanges : step (ready 0x00#64) = .next State.reset := rfl

/-- A command that is no reset and writes no operand register. -/
theorem test_witness_OperandsChangeOnlyByWriteOrReset :
    step (ready 0x00#64) = .next State.reset ∧
      (∀ e, (ready 0x00#64).nextEvent = some e → e.isReset = false ∧ e.writesTo 0x10#8 = false ∧
        e.writesTo 0x18#8 = false ∧ e.writesTo 0x20#8 = false ∧ e.writesTo 0x28#8 = false) := by
  refine ⟨rfl, fun e he => ?_⟩
  cases Option.some.inj he
  decide

/-- Both clauses: an error already recorded and an event that is no reset; and a reset. -/
theorem test_witness_ErrorFieldsAreSticky :
    step ((illegalCommandRecorded State.reset 3#4).withPending [Event.command 0x00#64]) =
        .next (illegalCommandRecorded State.reset 3#4) ∧
      (Event.command 0x00#64).isReset = false ∧ (illegalCommandRecorded State.reset 3#4).status.ill = true ∧
      (illegalCommandRecorded State.reset 3#4).status.ecode ≠ 0#4 ∧
      step ((accessErrorRecorded State.reset ⟨.host, 0xE0#8, 8, .write 0#64⟩ 6#4).withPending [.resetInput]) =
        .next State.reset ∧
      (accessErrorRecorded State.reset ⟨.host, 0xE0#8, 8, .write 0#64⟩ 6#4).status.accerr = true ∧
      Event.resetInput.isReset = true :=
  ⟨rfl, rfl, rfl, by decide, rfl, rfl, rfl⟩

/-- A lever step that leaves Idle, and a reset. -/
theorem test_witness_LeverMovesOnlyByItsTransitions :
    after (step ((operands 0#32 0#32 4#5 0#64).withPending [Event.command 0x04#64])) (fun t => t.status.lever) =
        some .extending ∧
      (Event.command 0x04#64).isReset = false ∧ (Event.command 0xA5#64).isReset = true ∧
      after (step ((lever .extending 0#5 0#64).withPending [Event.command 0xA5#64])) (fun t => t.status.lever) =
        some .idle := by decide +kernel

theorem test_witness_AgentsMakeNoDifference :
    step (State.reset.withPending [.access ⟨.reporter, 0x00#8, 8, .write 0x00#64⟩]) = .next State.reset := rfl

/-- A reporter's read between two writes of the host. -/
theorem test_witness_ReporterReadsAreInvisible :
    State.reset.cfg.legal = true ∧
      reporterOnlyReads [Event.command 0x05#64, .access ⟨.reporter, 0x08#8, 8, .read⟩, Event.command 0xA5#64] = true ∧
      withoutReporter [Event.command 0x05#64, .access ⟨.reporter, 0x08#8, 8, .read⟩, Event.command 0xA5#64] =
        [Event.command 0x05#64, Event.command 0xA5#64] := by decide

/-- A launch zone that reaches into the snap zone, and a lever step. -/
theorem test_witness_OverlappingZonesBoost :
    Config.legal { Config.default with startBoost := 0x4070E00000000000#64 } = true ∧
      F64.le (F64.sub 0x4070E00000000000#64 0x4024000000000000#64) 0x4070E00000000000#64 = true ∧
      F64.isNaN 0x4049000000000000#64 = false ∧ exec .lvs State.reset = .next State.reset.leverStep := by
  refine ⟨by decide, by decide +kernel, by decide, rfl⟩

/-- A NaN position in every state of the lever, with and without a trigger edge in Idle. -/
theorem test_witness_NaNPositionNeverTransitions :
    F64.isNaN (operands 0#32 0#32 0#5 qnan).argPos = true ∧ (operands 0#32 0#32 0#5 qnan).status.lever = .idle ∧
      (operands 0#32 0#32 0#5 qnan).triggerEdge = false ∧ (operands 0#32 0#32 4#5 qnan).triggerEdge = true ∧
      (lever .extending 0#5 qnan).status.lever = .extending ∧
      (lever .retracting 0#5 qnan).status.lever = .retracting := by decide

/-- The three targets' states, and a trigger edge while Extending. -/
theorem test_witness_NoRetriggerWhileExtending :
    State.reset.cfg.legal = true ∧ State.reset.triggerEdge = false ∧ (lever .idle 4#5 0#64).triggerEdge = true ∧
      (lever .retracting 0#5 0#64).status.lever = .retracting ∧ exec .lvs State.reset = .next State.reset.leverStep ∧
      (lever .extending 0#5 0#64).status.lever = .extending ∧
      (12#5).getLsbD 4 = (lever .extending 0#5 0#64).argIn.getLsbD 4 :=
  ⟨by decide, by decide, by decide, rfl, rfl, rfl, rfl⟩

/-- A stalled lever at 50.0 in each moving state, whose position is written again. -/
theorem test_witness_StalledLeverNeverReturns :
    (lever .extending 0#5 0x4049000000000000#64).status.lever = .extending ∧
      extendDone Config.default 0x4049000000000000#64 = false ∧
      positionsAll (fun p => !extendDone Config.default p)
        [Event.write .argPos 0x4049000000000000#64, Event.command 0x04#64] = true ∧
      (lever .retracting 0#5 0x4049000000000000#64).status.lever = .retracting ∧
      retractDone Config.default 0x4049000000000000#64 = false ∧
      positionsAll (fun p => !retractDone Config.default p)
        [Event.write .argPos 0x4049000000000000#64, Event.command 0x04#64] = true := by decide +kernel

theorem test_witness_DetectorEmitsExactlyTheRisingEdges :
    State.reset.cfg.legal = true ∧ 2 ≤ (2#4).toNat ∧ (2#4).toNat < State.reset.cfg.nedge ∧
      risingEdges false [false, false, true, true, true, false, true] =
        [false, false, true, false, false, false, true] := by decide

/-- An AXS pair that shares its sample, beside AXS2 and CYC; a tick written between the pair breaks the discipline. -/
theorem test_witness_DisciplineKeepsLastSamplesEqual :
    State.reset.cfg.legal = true ∧ State.reset.lastAF = State.reset.lastAL ∧ State.reset.lastBF = State.reset.lastBL ∧
      sharedSample none [Event.write .argA 7#64, Event.command 0x001#64, Event.command 0x004#64,
        Event.command 0x101#64, Event.command 0x005#64] = true ∧
      sharedSample none [Event.command 0x001#64, Event.write .argA 7#64, Event.command 0x101#64] = false := by decide

/-- The premises on inchesPerTick hold of the default configuration, in both instances. -/
theorem test_witness_inchesPerTick :
    inchesPerTick Config.default .forward = 0x3F4921FB54442D18#64 ∧
      inchesPerTick Config.default .lateral = 0x3F4921FB54442D18#64 ∧
      F64.isFinite 0x3F4921FB54442D18#64 = true ∧ F64.sign 0x3F4921FB54442D18#64 = false ∧
      0 < F64.mag 0x3F4921FB54442D18#64 := by decide +kernel

/-- Unchanged ticks at the end of their range, an available sample, and equal last samples of the two instances. -/
theorem test_witness_UnchangedTicksGiveZero :
    { State.reset with argA := 0x80000000#32, lastAF := 0x80000000#32, lastAL := 0x80000000#32, argIn := 3#5 }.argA =
      { State.reset with
        argA := 0x80000000#32, lastAF := 0x80000000#32, lastAL := 0x80000000#32, argIn := 3#5 }.lastA .forward := by
  decide

/-- The range's two ends, for each channel. -/
theorem test_witness_CountsInRangeGiveTrueMotion :
    -(2 ^ 31) ≤ (-2147483648 : Int) ∧ (2147483647 : Int) < 2 ^ 31 ∧
      (operands 0x7FFFFFFF#32 0x7FFFFFFF#32 0#5 0#64).argA = BitVec.ofInt 32 2147483647 ∧
      (operands 0x7FFFFFFF#32 0x7FFFFFFF#32 0#5 0#64).argB = BitVec.ofInt 32 2147483647 ∧
      { State.reset with lastAL := 0x80000000#32 }.lastA .lateral = BitVec.ofInt 32 (-2147483648) ∧
      { State.reset with lastBL := 0x80000000#32 }.lastB .lateral = BitVec.ofInt 32 (-2147483648) := by decide

theorem test_witness_TickDeltasConvertExactly : (-9007199254740991 : Int).natAbs < 2 ^ 53 := by decide

/-- A quotient that rounds, below infinity, and a finite magnitude to compare it with. -/
theorem test_witness_RoundingIsToNearestEven :
    0 < 3 ∧ F64.round 1 3 < F64.infBits ∧ F64.infBits - 1 < F64.infBits := by decide +kernel

/-- Just below the overflow midpoint and at it. -/
theorem test_witness_RoundingOverflowsAtTheMidpoint :
    0 < 1 ∧ F64.round ((2 ^ 54 - 1) * 2 ^ 2044 - 1) 1 = F64.infBits - 1 ∧
      F64.round ((2 ^ 54 - 1) * 2 ^ 2044) 1 = F64.infBits := by decide +kernel

/-- A largest delta on both channels of a default core. -/
theorem test_witness_LargestMagnitudeAsPrinted :
    after (exec (.axs .forward)
        { operands 0x7FFFFFFF#32 0x7FFFFFFF#32 3#5 0#64 with lastAF := 0x80000000#32, lastBF := 0x80000000#32 })
      (fun t => (t.resF, t.argIn.getLsbD 0)) = some (0x4151C5831ACB9D61#64, true) := by decide +kernel

/-- A legal wheel diameter at the largest finite value. -/
theorem test_witness_LegalConfigurationNeverOverflows :
    Config.legal { Config.default with wdF := 0x7FEFFFFFFFFFFFFF#64 } = true := by decide

theorem test_witness_TransformInvertsWithinRounding :
    (operands 8192#32 0#32 3#5 0#64).argIn.getLsbD 0 = true ∧ (operands 8192#32 0#32 3#5 0#64).argIn.getLsbD 1 = true ∧
      (operands 8192#32 0#32 3#5 0#64).lastAF = (operands 8192#32 0#32 3#5 0#64).lastAL ∧
      (operands 8192#32 0#32 3#5 0#64).lastBF = (operands 8192#32 0#32 3#5 0#64).lastBL := by decide

/-- Both orders of the two reads, with the other instance sampled between them; a distance that is overwritten unread, or
owed at the end, breaks the duty. -/
theorem test_witness_ConsumedResultsLoseNoDistance :
    State.reset.cfg.legal = true ∧
      resultsConsumed .forward false false [Event.command 0x002#64, Event.read .resF, Event.command 0x101#64,
        Event.read .status, Event.command 0x001#64, Event.read .status, Event.read .resF] = true ∧
      resultsConsumed .forward false false [Event.command 0x002#64, Event.read .status, Event.command 0x001#64] = false ∧
      resultsConsumed .lateral false false [Event.command 0x005#64, Event.read .resL] = false := by decide

/-- The host takes the distance of vector A1, and none for a failed read. -/
theorem test_distances_taken :
    distancesTaken .forward 3 none ((operands 8192#32 0#32 3#5 0#64).withPending
        [Event.command 0x002#64, Event.read .resF, Event.read .status]) = [some 0x4011C5831ADD62E4#64] ∧
      distancesTaken .forward 3 none ((operands 8192#32 0#32 1#5 0#64).withPending
        [Event.command 0x002#64, Event.read .status, Event.read .resF]) = [none] := by decide +kernel

/-- A largest change of 1.0 below EPS 2.0: an extend stroke from 267.0 to 268.0 and a retract stroke from 3.0 to 2.0, and
a stroke that goes on from 50.0 to 51.0. -/
theorem test_witness_CalibratedBandCatchesEveryStroke :
    bandExceedsStep Config.default 0x3FF0000000000000#64 = true ∧ F64.isFinite 0x3FF0000000000000#64 = true ∧
      |F64.value 0x4070C00000000000#64 - F64.value 0x4070B00000000000#64| ≤ F64.value 0x3FF0000000000000#64 ∧
      extendDone Config.default 0x4070B00000000000#64 = false ∧ extendDone Config.default 0x4070C00000000000#64 = true ∧
      |F64.value 0x4000000000000000#64 - F64.value 0x4008000000000000#64| ≤ F64.value 0x3FF0000000000000#64 ∧
      retractDone Config.default 0x4008000000000000#64 = false ∧ retractDone Config.default 0x4000000000000000#64 = true ∧
      |F64.value 0x4049800000000000#64 - F64.value 0x4049000000000000#64| ≤ F64.value 0x3FF0000000000000#64 ∧
      extendDone Config.default 0x4049800000000000#64 = false ∧
      retractDone Config.default 0x4049800000000000#64 = false := by decide +kernel

/-- A cycle with one lever step and a reporter's erroneous read in it, and one without a lever step; a write of the
reporter, a second lever step and a late operand write each break a duty. -/
theorem test_witness_SingleWriterCycleIsOneLeverStep :
    State.reset.cfg.legal = true ∧
      (∀ cycle ∈ [(AsmLine.cycle 8192#64 0#64 true true true false false 0#64).expand ++
          [.access ⟨.reporter, 0xE0#8, 8, .read⟩, Event.read .resTgt],
        (AsmLine.ticks 5#64 5#64).expand ++ [Event.command 0x002#64]],
        singleWriter cycle = true ∧ oneSample cycle = true ∧ oneLeverStep (withoutReporter cycle) = true ∧
          noReset cycle = true) ∧
      (withoutReporter ((AsmLine.cycle 8192#64 0#64 true true true false false 0#64).expand)).any Event.isLeverStep = true ∧
      (withoutReporter ((AsmLine.ticks 5#64 5#64).expand ++ [Event.command 0x002#64])).any Event.isLeverStep = false ∧
      singleWriter [.access ⟨.reporter, 0x10#8, 8, .write 0#64⟩] = false ∧
      oneLeverStep [Event.command 0x004#64, Event.command 0x005#64] = false ∧
      oneSample [Event.command 0x004#64, Event.write .argPos 0#64] = false := by decide

end Sys2Proof.Tests
end

/-! Rounding (rule R12). `unbounded` is a nearest magnitude of the unbounded binary64 grid, with ties to an even last
place. The grid's points are multiples of the chosen last place or lie strictly below its binade, so this follows from
`nearestEven` being a nearest integer; the overflow threshold follows from it in turn. -/

namespace Sys2Proof

/-! ### The distance of a whole number of units from a quotient -/

/-- The distance of u units from num/den units, in units of 1/den. -/
def F64.roundingError (num den u : Nat) : Nat := ((u : Int) * den - num).natAbs

/-- The distance without signs: one of the two truncated differences is 0. -/
theorem F64.roundingError_eq (num den u : Nat) :
    F64.roundingError num den u = (num - u * den) + (u * den - num) := by
  unfold F64.roundingError
  rw [← Nat.cast_mul]
  omega

/-- Counting in coarser units. -/
theorem F64.roundingError_mul (num den u c : Nat) :
    F64.roundingError num den (u * c) = F64.roundingError num (den * c) u := by
  unfold F64.roundingError
  push_cast
  congr 1
  ring

/-! ### Rounding to an integer -/

theorem F64.nearestEven_error (num den : Nat) (hd : 0 < den) :
    2 * F64.roundingError num den (F64.nearestEven num den) ≤ den ∧
      (2 * F64.roundingError num den (F64.nearestEven num den) = den → F64.nearestEven num den % 2 = 0) := by
  have hsplit : num / den * den + num % den = num := Nat.div_add_mod' num den
  have hlt : num % den < den := Nat.mod_lt num hd
  have hsucc : (num / den + 1) * den = num / den * den + den := Nat.succ_mul _ _
  have hdown := F64.roundingError_eq num den (num / den)
  have hup := F64.roundingError_eq num den (num / den + 1)
  unfold F64.nearestEven
  split
  all_goals
    rename_i h
    simp only [Bool.or_eq_true, Bool.and_eq_true, decide_eq_true_eq, beq_iff_eq] at h
    omega

/-- No integer is nearer than one within half a unit, and another is equally near only at exactly half a unit. -/
theorem F64.roundingError_of_half {num den r m : Nat} (h : 2 * F64.roundingError num den r ≤ den) (hne : m ≠ r) :
    den ≤ F64.roundingError num den r + F64.roundingError num den m := by
  have hgap : ∀ a b : Nat, a < b → a * den + den ≤ b * den := fun a b hab => by
    rw [← Nat.succ_mul]
    exact Nat.mul_le_mul_right den hab
  simp only [F64.roundingError_eq] at h ⊢
  rcases Nat.lt_or_gt_of_ne hne with hlt | hlt
  · have := hgap m r hlt
    omega
  · have := hgap r m hlt
    omega

theorem F64.nearestEven_nearest (num den m : Nat) (hd : 0 < den) :
    F64.roundingError num den (F64.nearestEven num den) ≤ F64.roundingError num den m ∧
      (F64.roundingError num den (F64.nearestEven num den) = F64.roundingError num den m →
        m ≠ F64.nearestEven num den → F64.nearestEven num den % 2 = 0) := by
  obtain ⟨hhalf, htie⟩ := F64.nearestEven_error num den hd
  by_cases hm : m = F64.nearestEven num den
  · rw [hm]
    exact ⟨Nat.le_refl _, fun _ hne => absurd rfl hne⟩
  · have := F64.roundingError_of_half hhalf hm
    exact ⟨by omega, fun heq _ => htie (by omega)⟩

/-! ### The grid of binary64 magnitudes -/

/-- The magnitude of significand m in binade k, whether subnormal (k = 0), normal, or carried over to the next
binade. -/
theorem F64.unitsOf_significand (k m : Nat) (hlo : 0 < k → 2 ^ 52 ≤ m) (hhi : m ≤ 2 ^ 53) :
    F64.unitsOf (2 ^ 52 * k + m) = m * 2 ^ k := by
  rcases Nat.eq_or_lt_of_le hhi with rfl | hlt
  · have hcarry : 2 ^ 52 * k + 2 ^ 53 = 2 ^ 52 * (k + 1) + 2 ^ 52 := by omega
    rw [hcarry, F64.unitsOf_eq (k + 1) (2 ^ 52) (by omega) (by omega), Nat.pow_succ]
    ring
  · rcases Nat.eq_zero_or_pos k with rfl | hk
    · simpa using F64.unitsOf_of_lt m hlt
    · exact F64.unitsOf_eq k m (hlo hk) hlt

theorem F64.unitsOf_strictMono : StrictMono F64.unitsOf := by
  refine strictMono_nat_of_lt_succ fun p => ?_
  rcases Nat.lt_or_ge p (2 ^ 52) with hp | hp
  · rw [F64.unitsOf_of_lt p (by omega), F64.unitsOf_of_lt (p + 1) (by omega)]
    omega
  · obtain ⟨k, m, hlo, hhi, rfl⟩ := F64.binade p hp
    rw [Nat.add_assoc, F64.unitsOf_significand k m (fun _ => hlo) (by omega),
      F64.unitsOf_significand k (m + 1) (fun _ => by omega) (by omega)]
    exact Nat.mul_lt_mul_of_pos_right (Nat.lt_succ_self m) (Nat.two_pow_pos k)

/-- Every magnitude is a multiple of binade k's last place, or lies below that binade. -/
theorem F64.unitsOf_multiple_or_below (k p : Nat) :
    (∃ m, F64.unitsOf p = m * 2 ^ k) ∨ (0 < k ∧ F64.unitsOf p < 2 ^ 52 * 2 ^ k) := by
  rcases Nat.lt_or_ge p (2 ^ 52 * k + 2 ^ 52) with hp | hp
  · rcases Nat.eq_zero_or_pos k with rfl | hk
    · exact .inl ⟨F64.unitsOf p, by simp⟩
    · refine .inr ⟨hk, ?_⟩
      rw [← F64.unitsOf_significand k (2 ^ 52) (fun _ => Nat.le_refl _) (by omega)]
      exact F64.unitsOf_strictMono hp
  · obtain ⟨j, m, hlo, hhi, rfl⟩ := F64.binade p (by omega)
    have hkj : k ≤ j := by omega
    refine .inl ⟨m * 2 ^ (j - k), ?_⟩
    rw [F64.unitsOf_eq j m hlo hhi, Nat.mul_assoc, ← Nat.pow_add, Nat.sub_add_cancel hkj]

/-! ### Rounding to the grid without an upper bound -/

/-- The chosen last place leaves at most 53 bits of num/den, and exactly 53 where it is above the least one. -/
theorem F64.lastPlace_bounds (num den : Nat) (hd : 0 < den) :
    num < 2 ^ 53 * (den * 2 ^ F64.lastPlace num den) ∧
      (0 < F64.lastPlace num den → 2 ^ 52 * (den * 2 ^ F64.lastPlace num den) ≤ num) := by
  have hscale : ∀ b, 2 ^ b * (den * 2 ^ F64.lastPlace num den) = 2 ^ (b + F64.lastPlace num den) * den := fun b => by
    rw [Nat.pow_add]
    ring
  rw [hscale, hscale, ← Nat.div_lt_iff_lt_mul hd, ← Nat.le_div_iff_mul_le hd]
  unfold F64.lastPlace
  constructor
  · calc num / den < 2 ^ (Nat.log2 (num / den) + 1) := Nat.lt_log2_self
      _ ≤ 2 ^ (53 + (Nat.log2 (num / den) - 52)) := Nat.pow_le_pow_right (by decide) (by omega)
  · intro hk
    have hne : num / den ≠ 0 := fun h0 => by simp [h0] at hk
    rw [Nat.add_sub_cancel' (by omega)]
    exact Nat.log2_self_le hne

theorem F64.unitsOf_unbounded (num den : Nat) (hd : 0 < den) :
    F64.unitsOf (F64.unbounded num den) =
      F64.nearestEven num (den * 2 ^ F64.lastPlace num den) * 2 ^ F64.lastPlace num den := by
  obtain ⟨hhi, hlo⟩ := F64.lastPlace_bounds num den hd
  have hpos : 0 < den * 2 ^ F64.lastPlace num den := Nat.mul_pos hd (Nat.two_pow_pos _)
  exact F64.unitsOf_significand _ _ (fun hk => (F64.nearestEven_bounds num _ _ hpos).1 (hlo hk))
    ((F64.nearestEven_bounds num _ _ hpos).2 (Nat.le_of_lt hhi))

theorem F64.unbounded_mod_two (num den : Nat) :
    F64.unbounded num den % 2 = F64.nearestEven num (den * 2 ^ F64.lastPlace num den) % 2 := by
  unfold F64.unbounded
  omega

/-- Round to nearest, ties to even, over the whole unbounded grid. -/
theorem F64.unbounded_nearest (num den p : Nat) (hd : 0 < den) :
    F64.roundingError num den (F64.unitsOf (F64.unbounded num den)) ≤ F64.roundingError num den (F64.unitsOf p) ∧
      (F64.roundingError num den (F64.unitsOf (F64.unbounded num den)) = F64.roundingError num den (F64.unitsOf p) →
        p ≠ F64.unbounded num den → F64.unbounded num den % 2 = 0) := by
  have hpos : 0 < den * 2 ^ F64.lastPlace num den := Nat.mul_pos hd (Nat.two_pow_pos _)
  have hu := F64.unitsOf_unbounded num den hd
  have hnear := fun m => F64.nearestEven_nearest num _ m hpos
  rw [F64.unbounded_mod_two, hu, F64.roundingError_mul]
  rcases F64.unitsOf_multiple_or_below (F64.lastPlace num den) p with ⟨m, hm⟩ | ⟨hk, hbelow⟩
  · rw [hm, F64.roundingError_mul]
    refine ⟨(hnear m).1, fun heq hne => (hnear m).2 heq fun hmr => hne ?_⟩
    exact F64.unitsOf_strictMono.injective (by rw [hm, hu, hmr])
  · have hlo := (F64.lastPlace_bounds num den hd).2 hk
    have hlt : F64.unitsOf p * den < 2 ^ 52 * (den * 2 ^ F64.lastPlace num den) := by
      calc F64.unitsOf p * den < 2 ^ 52 * 2 ^ F64.lastPlace num den * den := Nat.mul_lt_mul_of_pos_right hbelow hd
        _ = 2 ^ 52 * (den * 2 ^ F64.lastPlace num den) := by ring
    have hbest := (hnear (2 ^ 52)).1
    rw [F64.roundingError_eq num _ (2 ^ 52)] at hbest
    rw [F64.roundingError_eq num den (F64.unitsOf p)]
    exact ⟨by omega, fun heq => by omega⟩

theorem F64.round_of_lt {num den : Nat} (h : F64.round num den < F64.infBits) :
    F64.round num den = F64.unbounded num den := by
  unfold F64.round at *
  split at h
  · omega
  · rename_i hlt
    rw [if_neg hlt]

/-- Settles O54: below infinity the rounding is `unbounded`, which is nearest-even on the unbounded grid. -/
theorem roundingIsToNearestEven : Obligations.RoundingIsToNearestEven := by
  intro num den hd hfin p _
  rw [F64.round_of_lt hfin]
  exact F64.unbounded_nearest num den p hd

/-! ### Overflow -/

/-- A quotient rounds above an odd p exactly from the midpoint of p and p + 1 on: the tie goes to the even p + 1. -/
theorem F64.lt_unbounded_iff (num den p : Nat) (hd : 0 < den) (hodd : p % 2 = 1) :
    p < F64.unbounded num den ↔ (F64.unitsOf p + F64.unitsOf (p + 1)) * den ≤ 2 * num := by
  have hmul : ∀ a b, a ≤ b → F64.unitsOf a * den ≤ F64.unitsOf b * den := fun a b hab =>
    Nat.mul_le_mul_right den (F64.unitsOf_strictMono.monotone hab)
  have hstep : F64.unitsOf p * den < F64.unitsOf (p + 1) * den :=
    Nat.mul_lt_mul_of_pos_right (F64.unitsOf_strictMono (Nat.lt_succ_self p)) hd
  have hnear := F64.unbounded_nearest num den
  simp only [F64.roundingError_eq] at hnear
  rw [Nat.add_mul]
  constructor
  · intro hgt
    by_contra hmid
    have hle := hmul (p + 1) _ hgt
    have hbest := (hnear p hd).1
    omega
  · intro hmid
    by_contra hle
    have hup := hmul _ p (Nat.le_of_not_lt hle)
    obtain ⟨hbest, htie⟩ := hnear (p + 1) hd
    have hsame : F64.unbounded num den = p :=
      F64.unitsOf_strictMono.injective (Nat.eq_of_mul_eq_mul_right hd (by omega))
    have := htie (by omega) (by omega)
    omega

theorem F64.round_eq_infBits_iff (num den : Nat) :
    F64.round num den = F64.infBits ↔ F64.infBits - 1 < F64.unbounded num den := by
  have hinf : 0 < F64.infBits := by decide
  unfold F64.round
  split <;> omega

/-- A binade's largest magnitude and the next binade's least, with their midpoint. -/
theorem F64.unitsOf_binade_midpoint (k : Nat) :
    F64.unitsOf (2 ^ 52 * (k + 1) + (2 ^ 53 - 1)) + F64.unitsOf (2 ^ 52 * (k + 1) + 2 ^ 53) =
      2 * ((2 ^ 54 - 1) * 2 ^ k) := by
  rw [F64.unitsOf_significand _ _ (by omega) (by omega), F64.unitsOf_significand _ _ (by omega) (by omega),
    Nat.pow_succ]
  omega

/-- The largest finite magnitude, 2^1024 and their midpoint, in units of 2^-1074. -/
theorem F64.unitsOf_overflow_midpoint :
    F64.unitsOf (F64.infBits - 1) + F64.unitsOf (F64.infBits - 1 + 1) = 2 * ((2 ^ 54 - 1) * 2 ^ 2044) := by
  have hmax : F64.infBits - 1 = 2 ^ 52 * (2044 + 1) + (2 ^ 53 - 1) := by decide
  have hnext : F64.infBits - 1 + 1 = 2 ^ 52 * (2044 + 1) + 2 ^ 53 := by decide
  rw [hnext, hmax]
  exact F64.unitsOf_binade_midpoint 2044

/-- Settles O55: the largest finite value has an odd last place, so its upper midpoint already rounds up. -/
theorem roundingOverflowsAtTheMidpoint : Obligations.RoundingOverflowsAtTheMidpoint := by
  intro num den hd
  rw [F64.round_eq_infBits_iff, F64.lt_unbounded_iff num den _ hd (by decide), F64.unitsOf_overflow_midpoint,
    Nat.mul_assoc, Nat.mul_le_mul_left_iff (by decide), Nat.mul_comm den]

/-! ### Conversion of integers -/

/-- A finite magnitude is its own rounding. -/
theorem F64.round_unitsOf (p : Nat) (hp : p < F64.infBits) : F64.round (F64.unitsOf p) 1 = p :=
  Nat.le_antisymm (F64.round_le _ p hp (Nat.le_refl _)) (F64.le_round _ p hp (Nat.le_refl _))

/-- A number of at most 53 bits, counted in units of 2^e, is a magnitude: shift it up to a 53-bit significand. -/
theorem F64.exists_unitsOf_scaled (n e : Nat) (hn : n < 2 ^ 53) (he : 52 ≤ e) :
    ∃ p < 2 ^ 52 * (e + 2), F64.unitsOf p = n * 2 ^ e := by
  rcases Nat.eq_zero_or_pos n with rfl | hpos
  · exact ⟨0, by omega, by rw [F64.unitsOf_of_lt 0 (by decide), Nat.zero_mul]⟩
  · have hne : n ≠ 0 := Nat.ne_of_gt hpos
    have hlog : Nat.log2 n < 53 := (Nat.log2_lt hne).2 hn
    obtain ⟨j, hj⟩ : ∃ j, Nat.log2 n + j = 52 := ⟨52 - Nat.log2 n, by omega⟩
    have hlo : 2 ^ 52 ≤ n * 2 ^ j := by
      rw [← hj, Nat.pow_add]
      exact Nat.mul_le_mul_right _ (Nat.log2_self_le hne)
    have hhi : n * 2 ^ j < 2 ^ 53 := by
      rw [show 53 = Nat.log2 n + 1 + j by omega, Nat.pow_add]
      exact Nat.mul_lt_mul_of_pos_right Nat.lt_log2_self (Nat.two_pow_pos j)
    refine ⟨2 ^ 52 * (e - j) + n * 2 ^ j, by omega, ?_⟩
    rw [F64.unitsOf_eq _ _ hlo hhi, Nat.mul_assoc, ← Nat.pow_add, Nat.add_sub_cancel' (by omega)]

theorem F64.ofInt_exact (n : Int) (hn : n.natAbs < 2 ^ 53) :
    F64.isFinite (F64.ofInt n) = true ∧ F64.units (F64.ofInt n) = n * 2 ^ 1074 := by
  obtain ⟨p, hlt, hu⟩ := F64.exists_unitsOf_scaled n.natAbs 1074 hn (by decide)
  have hp : p < F64.infBits := hlt.trans (by decide)
  have hround : F64.round (2 ^ 1074 * n.natAbs) 1 = p := by rw [Nat.mul_comm, ← hu, F64.round_unitsOf p hp]
  have hpack : F64.ofInt n = F64.pack (decide (n < 0)) p := by rw [F64.ofInt_eq, hround]
  refine ⟨by rw [hpack, F64.isFinite_pack _ p hp.le, decide_eq_true hp], ?_⟩
  rw [hpack, F64.units_pack _ p (hp.trans F64.infBits_lt), hu, Nat.cast_mul, Nat.cast_pow, Nat.cast_ofNat]
  rcases lt_or_ge n 0 with hneg | hpos
  · rw [if_pos (decide_eq_true hneg), ← Int.neg_mul, Int.ofNat_natAbs_of_nonpos hneg.le, Int.neg_neg]
  · rw [decide_eq_false (Int.not_lt.2 hpos), if_neg Bool.false_ne_true, Int.natAbs_of_nonneg hpos]

end Sys2Proof

namespace Sys2Proof.Machine

/-- The difference of two stored counts is at most 2^32 - 1 in magnitude (rule R101). -/
theorem natAbs_tick_sub_le (a b : Tick) : (a.toInt - b.toInt).natAbs ≤ 2 ^ 32 - 1 := by
  have ha := a.toInt_lt
  have ha' := a.le_toInt
  have hb := b.toInt_lt
  have hb' := b.le_toInt
  omega

/-- Settles O52: the deltas by the range of a tick, the conversion because a 53-bit integer is a finite magnitude. -/
theorem tickDeltasConvertExactly : Obligations.TickDeltasConvertExactly :=
  ⟨fun _ _ => ⟨rfl, rfl, natAbs_tick_sub_le _ _, natAbs_tick_sub_le _ _⟩, F64.ofInt_exact⟩

end Sys2Proof.Machine

/-! The reset state's readings (rules R9, R21, R202) and the refusal of illegal configurations (rule R8). -/

namespace Sys2Proof

/-- Legality, constraint by constraint (rules R7, R8). -/
theorem Config.legal_iff (c : Config) :
    c.legal = true ↔
      1 ≤ c.tpr ∧ c.tpr < 2 ^ 31 ∧
      F64.isFinite c.wdF = true ∧ F64.lt 0x0000000000000000#64 c.wdF = true ∧
      F64.isFinite c.wdL = true ∧ F64.lt 0x0000000000000000#64 c.wdL = true ∧
      F64.isFinite c.lmin = true ∧ F64.isFinite c.lmax = true ∧ F64.isFinite c.startBoost = true ∧
      F64.isFinite c.snapZone = true ∧ F64.isFinite c.eps = true ∧
      F64.ge c.eps 0x0000000000000000#64 = true ∧ F64.lt c.lmin c.lmax = true ∧
      c.boost.toNat ≤ 127 ∧ c.fast.toNat ≤ 127 ∧ c.slow.toNat ≤ 127 ∧ c.hold.toNat ≤ 127 ∧
      2 ≤ c.nedge ∧ c.nedge ≤ 16 := by
  simp only [Config.legal, Config.rotatorLegal, Config.diameterLegal, Config.leverFinite, Config.leverOrdered,
    Config.speedsLegal, Config.speedLegal, Config.detectorsLegal, Bool.and_eq_true, Bool.not_eq_true',
    decide_eq_true_eq, decide_eq_false_iff_not, Nat.not_le, and_assoc]

end Sys2Proof

namespace Sys2Proof.Machine

theorem step_refused_iff (s : State) :
    step s = .refused .illegalConfiguration ↔ ¬ Config.legal s.cfg = true := by
  rcases step_cases s with ⟨hl, h⟩ | ⟨hl, _, h⟩ | ⟨e, rest, hl, _, h⟩
  · simp [hl, h]
  · simp [hl, h]
  · obtain ⟨t, ht, _⟩ := stepped_withPending_cons s e rest hl
    simp [hl, h, ht]

/-- Settles O31: a step is refused exactly where legality fails, and legality is the list of constraints. -/
theorem illegalConfigurationRefused : Obligations.IllegalConfigurationRefused := fun s => by
  rw [step_refused_iff, Config.legal_iff]

/-- STATUS after reset (rules R25, R26): only the two UNAV flags are set. -/
theorem Status.toWord_reset : Status.reset.toWord = 0x3#64 := by decide

/-- CFG_ID of the default configuration (rule R47): interface version 1 and four detectors. -/
theorem configIdWord_default : configIdWord Config.default = 0x104#64 := rfl

/-- CFG_SPEEDS of the default configuration (rule R52): 50, 30, 70 and 127. -/
theorem configSpeedsWord_default : configSpeedsWord Config.default = 0x00000000321E467F#64 := rfl

/-- Settles O8: the words composed of several fields by their lemmas, every other register by the field it reads. -/
theorem resetStateReadsSpecValues : Obligations.ResetStateReadsSpecValues :=
  ⟨rfl, Status.toWord_reset, rfl, rfl, rfl, rfl, rfl, rfl, rfl, rfl, rfl, rfl, rfl, rfl, rfl, rfl,
    configIdWord_default, rfl, rfl, rfl, rfl, rfl, rfl, rfl, rfl, configSpeedsWord_default, rfl, rfl⟩

end Sys2Proof.Machine

/-! What one event leaves, with the command it runs already performed: the form in which an invariant is proved case by
case. -/

namespace Sys2Proof.Machine

/-- The state that event e leaves of s, one constructor per way an event can end (rules R61 to R63, R80, R200). -/
inductive EventLeaves (s : State) (e : Event) : State → Prop where
  | reset (h : e.isReset = true) : EventLeaves s e s.resetCore
  | answered (a : Access) (v : Word) (hn : e.isReset = false) (hc : e.commandOf = none) :
      EventLeaves s e (s.answer a v)
  | accessError (a : Access) (c : ErrorCode) (hn : e.isReset = false) (hc : e.commandOf = none) :
      EventLeaves s e (s.accessError a c)
  | argA (v : Word) (h : e.writesTo 0x10#8 = true) (hn : e.isReset = false) (hc : e.commandOf = none) :
      EventLeaves s e { s with argA := v.setWidth 32 }
  | argB (v : Word) (h : e.writesTo 0x18#8 = true) (hn : e.isReset = false) (hc : e.commandOf = none) :
      EventLeaves s e { s with argB := v.setWidth 32 }
  | argPos (v : Word) (h : e.writesTo 0x20#8 = true) (hn : e.isReset = false) (hc : e.commandOf = none) :
      EventLeaves s e { s with argPos := v }
  | argIn (v : Word) (h : e.writesTo 0x28#8 = true) (hn : e.isReset = false) (hc : e.commandOf = none) :
      EventLeaves s e { s with argIn := v.setWidth 5 }
  | illegalWord (d : DecodeError) (hn : e.isReset = false) (hc : e.commandOf = none) :
      EventLeaves s e (s.raise (errorOf d))
  | nop (hn : e.isReset = false) (hc : e.commandOf = some .nop) : EventLeaves s e s
  | axs (i : AxisInst) (hn : e.isReset = false) (hc : e.commandOf = some (.axs i)) : EventLeaves s e (s.axisStep i)
  | axs2 (hn : e.isReset = false) (hc : e.commandOf = some .axs2) :
      EventLeaves s e ((s.axisStep .forward).axisStep .lateral)
  | edg (idx : BitVec 4) (r : Bool) (hlt : idx.toNat < s.cfg.nedge) (hn : e.isReset = false)
      (hc : e.commandOf = some (.edg idx r)) : EventLeaves s e (s.edgeObserve idx.toNat r)
  | illegalIndex (idx : BitVec 4) (r : Bool) (hn : e.isReset = false) (hc : e.commandOf = some (.edg idx r)) :
      EventLeaves s e (s.raise .illIdx)
  | lvs (hn : e.isReset = false) (hc : e.commandOf = some .lvs) : EventLeaves s e s.leverStep
  | cyc (hn : e.isReset = false) (hc : e.commandOf = some .cyc) :
      EventLeaves s e ((s.axisStep .forward).axisStep .lateral).leverStep

/-- A command that is no reset ends in one of its ways. -/
theorem EventLeaves.of_exec {s t : State} {e : Event} {i : Instr} (hc : e.commandOf = some i) (hi : i ≠ .rst)
    (hn : e.isReset = false) (h : exec i s = .next t) : EventLeaves s e t := by
  rcases exec_cases i s with ⟨rfl, h'⟩ | ⟨ax, rfl, h'⟩ | ⟨rfl, h'⟩ | ⟨idx, r, rfl, _, hlt, h'⟩ | ⟨idx, r, rfl, _, h'⟩ |
      ⟨rfl, h'⟩ | ⟨rfl, h'⟩ | ⟨rfl, _⟩
  case inr.inr.inr.inr.inr.inr.inr => exact absurd rfl hi
  all_goals cases h'.symm.trans h
  · exact .nop hn hc
  · exact .axs ax hn hc
  · exact .axs2 hn hc
  · exact .edg idx r hlt hn hc
  · exact .illegalIndex idx r hn hc
  · exact .lvs hn hc
  · exact .cyc hn hc

theorem Effect.leaves {s t : State} {e : Event} (h : Effect s e (.next t)) : EventLeaves s e t := by
  generalize ho : Host.Outcome.next t = o at h
  cases h with
  | command i hc hi hn => exact .of_exec hc hi hn ho.symm
  | reset h => cases ho; exact .reset h
  | read a r _ _ _ _ hn hc => cases ho; exact .answered a _ hn hc
  | error a c _ _ hn hc => cases ho; exact .accessError a c hn hc
  | argA v h hn hc => cases ho; exact .argA v h hn hc
  | argB v h hn hc => cases ho; exact .argB v h hn hc
  | argPos ag v h hn hc => cases ho; exact .argPos v (h ▸ rfl) hn hc
  | argIn v h hn hc => cases ho; exact .argIn v h hn hc
  | illegal d hn hc => cases ho; exact .illegalWord d hn hc

/-- A completed step is an idle one, or the first event leaves its state. -/
theorem step_leaves {s t : State} (h : step s = .next t) :
    Config.legal s.cfg = true ∧
      ((s.nextEvent = none ∧ t = s) ∨
        ∃ e rest, s.nextEvent = some e ∧ EventLeaves (s.withPending rest) e t) := by
  obtain ⟨hl, ⟨hp, ht⟩ | ⟨e, rest, hp, he⟩⟩ := step_effect h
  · exact ⟨hl, .inl ⟨by rw [State.nextEvent, hp]; rfl, ht⟩⟩
  · exact ⟨hl, .inr ⟨e, rest, by rw [State.nextEvent, hp]; rfl, he.leaves⟩⟩

/-! ### What an event that is no reset leaves unchanged -/

/-- An operand register changes only by a write to it (rules R31 to R34). -/
theorem EventLeaves.operands {s t : State} {e : Event} (h : EventLeaves s e t) (hn : e.isReset = false) :
    (e.writesTo 0x10#8 = false → t.argA = s.argA) ∧ (e.writesTo 0x18#8 = false → t.argB = s.argB) ∧
      (e.writesTo 0x20#8 = false → t.argPos = s.argPos) ∧ (e.writesTo 0x28#8 = false → t.argIn = s.argIn) := by
  cases h with
  | reset h => rw [h] at hn; cases hn
  | argA v h | argB v h | argPos v h | argIn v h => simp [h]
  | _ => simp

/-- The last sample of an AxisTransform changes only by a sample of it (rules R41 to R44). -/
theorem EventLeaves.last {s t : State} {e : Event} (h : EventLeaves s e t) (hn : e.isReset = false)
    (hs : ∀ i, e.samples i = false) (i : AxisInst) : t.lastA i = s.lastA i ∧ t.lastB i = s.lastB i := by
  cases h with
  | reset h => rw [h] at hn; cases hn
  | axs j _ hc => simpa [Event.samples, hc] using hs j
  | axs2 _ hc | cyc _ hc => simpa [Event.samples, hc] using hs .forward
  | _ => cases i <;> simp [State.lastA, State.lastB]

end Sys2Proof.Machine

/-! The register invariant (rules R26 to R29, R38 to R40, R180, R181): each operation keeps it, so every step does. -/

namespace Sys2Proof.Machine

/-! ### Detectors -/

theorem detectorsSound_iff (s : State) :
    s.DetectorsSound ↔
      (∀ k, s.cfg.nedge ≤ k → s.edgeLast.getLsbD k = false) ∧ ∀ k, s.cfg.nedge ≤ k → s.resEdge.getLsbD k = false := by
  have hbits : ∀ x : BitVec 16,
      x >>> s.cfg.nedge = 0#16 ↔ ∀ k, s.cfg.nedge ≤ k → x.getLsbD k = false := fun x => by
    constructor
    · intro h k hk
      have hbit : (x >>> s.cfg.nedge).getLsbD (k - s.cfg.nedge) = false := by rw [h, BitVec.getLsbD_zero]
      rwa [BitVec.getLsbD_ushiftRight, Nat.add_sub_cancel' hk] at hbit
    · intro h
      refine BitVec.eq_of_getLsbD_eq fun i _ => ?_
      rw [BitVec.getLsbD_ushiftRight, h _ (Nat.le_add_right _ _), BitVec.getLsbD_zero]
  exact and_congr (hbits _) (hbits _)

theorem edgesSound_iff (s : State) :
    s.EdgesSound ↔ ∀ k, s.resEdge.getLsbD k = true → s.edgeLast.getLsbD k = true := by
  constructor
  · intro h k hk
    have hbit : (s.resEdge &&& ~~~s.edgeLast).getLsbD k = false := by rw [h, BitVec.getLsbD_zero]
    have hlt : k < 16 := BitVec.lt_of_getLsbD hk
    simpa [hk, hlt] using hbit
  · intro h
    refine BitVec.eq_of_getLsbD_eq fun i hi => ?_
    cases hr : s.resEdge.getLsbD i
    · simp [hr]
    · simp [hr, h i hr]

/-- Observing an existing detector moves only that detector's two bits, and an edge is a true sample (rule R160). -/
theorem State.Inv.edgeObserve {s : State} (hi : s.Inv) {n : Nat} (raw : Bool) (hn : n < s.cfg.nedge)
    (hlegal : s.cfg.nedge ≤ 16) : (s.edgeObserve n raw).Inv := by
  have hn16 : n < 16 := by omega
  obtain ⟨hdet, hedge, hrest⟩ := hi
  rw [detectorsSound_iff] at hdet
  rw [edgesSound_iff] at hedge
  refine ⟨(detectorsSound_iff _).2 ⟨fun k hk => ?_, fun k hk => ?_⟩, (edgesSound_iff _).2 fun k => ?_, hrest⟩
  · rw [State.edgeObserve_cfg] at hk
    rw [State.edgeObserve_edgeLast_bit _ _ _ _ hn16, if_neg (by omega), hdet.1 k hk]
  · rw [State.edgeObserve_cfg] at hk
    rw [State.edgeObserve_resEdge_bit _ _ _ _ hn16, if_neg (by omega), hdet.2 k hk]
  · rw [State.edgeObserve_resEdge_bit _ _ _ _ hn16, State.edgeObserve_edgeLast_bit _ _ _ _ hn16]
    split
    · simp +contextual
    · exact hedge k

/-! ### The lever -/

theorem afterPosition_eq_extending {c : Config} {st : LeverState} {pos : F64}
    (h : afterPosition c st pos = .extending) : st = .extending := by
  cases st with
  | idle => exact h
  | extending => rfl
  | retracting => simp only [afterPosition] at h; split at h <;> cases h

theorem afterPosition_eq_retracting {c : Config} {st : LeverState} {pos : F64}
    (h : afterPosition c st pos = .retracting) : st = .extending ∨ st = .retracting := by
  cases st with
  | idle => cases h
  | extending => exact .inl rfl
  | retracting => exact .inr rfl

theorem afterPosition_extending_ne_idle (c : Config) (pos : F64) : afterPosition c .extending pos ≠ .idle := by
  simp only [afterPosition]
  split <;> simp

theorem extendSpeed_eq (c : Config) (pos : F64) (aux : Bool) :
    extendSpeed c pos aux = c.boost ∨ extendSpeed c pos aux = cruiseSpeed c aux := by
  unfold extendSpeed
  split
  · exact .inl rfl
  · split
    · exact .inl rfl
    · exact .inr rfl

theorem cruiseSpeed_le {c : Config} (hl : Config.legal c = true) (aux : Bool) : (cruiseSpeed c aux).toNat ≤ 127 := by
  obtain ⟨_, hfast, hslow, _⟩ := Config.speeds_of_legal hl
  cases aux
  · exact hslow
  · exact hfast

theorem commandSpeed_le {c : Config} (hl : Config.legal c = true) (st : LeverState) (pos : F64) (aux : Bool) :
    (commandSpeed c st pos aux).toNat ≤ 127 := by
  obtain ⟨hboost, _, _, hhold⟩ := Config.speeds_of_legal hl
  cases st with
  | idle => exact hhold
  | extending =>
    show (extendSpeed c pos aux).toNat ≤ 127
    rcases extendSpeed_eq c pos aux with h | h <;> rw [h]
    · exact hboost
    · exact cruiseSpeed_le hl aux
  | retracting => exact cruiseSpeed_le hl aux

theorem State.leverCommand_triggerFlagsSound (s : State) (trig : Bool) : (s.leverCommand trig).TriggerFlagsSound := by
  constructor
  · rintro ⟨hacc, hign⟩
    simp only [State.leverCommand, Bool.and_eq_true, decide_eq_true_eq] at hacc hign
    exact hign.2 hacc.2
  · intro hacc
    simp only [State.leverCommand, Bool.and_eq_true, decide_eq_true_eq] at hacc
    obtain ⟨htrig, hidle⟩ := hacc
    show afterPosition s.cfg (afterTrigger s.status.lever trig) s.argPos ≠ .idle
    rw [htrig, hidle]
    exact afterPosition_extending_ne_idle s.cfg s.argPos

theorem State.leverCommand_commandSound (s : State) (trig : Bool) (hl : Config.legal s.cfg = true) :
    (s.leverCommand trig).CommandSound := by
  refine ⟨fun hst => ?_, fun hst => ?_, commandSpeed_le hl _ _ _⟩
  · show commandTarget s.cfg (afterTrigger s.status.lever trig) s.argPos = s.cfg.lmax
    rw [afterPosition_eq_extending hst]
    rfl
  · show commandTarget s.cfg (afterTrigger s.status.lever trig) s.argPos = s.cfg.lmax ∨
      commandTarget s.cfg (afterTrigger s.status.lever trig) s.argPos = s.cfg.lmin
    rcases afterPosition_eq_retracting hst with h | h <;> rw [h]
    · exact .inl rfl
    · exact .inr rfl

/-- The command half of a lever step builds its clauses of the invariant anew and touches no other. -/
theorem State.Inv.leverCommand {s : State} (hi : s.Inv) (trig : Bool) (hl : Config.legal s.cfg = true) :
    (s.leverCommand trig).Inv := by
  obtain ⟨hdet, hedge, hdist, _, _, _, herr⟩ := hi
  exact ⟨hdet, hedge, hdist, fun hcmdv => (Bool.noConfusion hcmdv), s.leverCommand_triggerFlagsSound trig,
    s.leverCommand_commandSound trig hl, herr⟩

theorem State.Inv.leverStep {s : State} (hi : s.Inv) (hl : Config.legal s.cfg = true) : s.leverStep.Inv := by
  obtain ⟨hlo, hhi⟩ := Config.nedge_of_legal hl
  have htriggers : s.observeTriggers.Inv :=
    (hi.edgeObserve s.t0 (n := 0) (by omega) hhi).edgeObserve s.t1 (n := 1) (by rw [State.edgeObserve_cfg]; omega) hhi
  exact htriggers.leverCommand s.trigger hl

/-! ### The other operations -/

/-- An AxisStep writes one RES and its UNAV flag together (rules R103, R104). -/
theorem State.Inv.axisStep {s : State} (hi : s.Inv) (i : AxisInst) : (s.axisStep i).Inv := by
  obtain ⟨hdet, hedge, ⟨hforward, hlateral⟩, hrest⟩ := hi
  cases hv : s.sampleValid <;> cases i
  · rw [State.axisStep_forward_of_failed s hv]
    exact ⟨hdet, hedge, ⟨fun _ => rfl, hlateral⟩, hrest⟩
  · rw [State.axisStep_lateral_of_failed s hv]
    exact ⟨hdet, hedge, ⟨hforward, fun _ => rfl⟩, hrest⟩
  · rw [State.axisStep_forward_of_valid s hv]
    exact ⟨hdet, hedge, ⟨fun h => Bool.noConfusion h, hlateral⟩, hrest⟩
  · rw [State.axisStep_lateral_of_valid s hv]
    exact ⟨hdet, hedge, ⟨hforward, fun h => Bool.noConfusion h⟩, hrest⟩

theorem ErrorCode.code_range (c : ErrorCode) : c.code ≠ 0#4 ∧ c.code.toNat ≤ 6 := by cases c <;> decide

/-- A recorded error sets its sticky bit together with ECODE (rule R181). -/
theorem State.Inv.raise {s : State} (hi : s.Inv) (c : ErrorCode) : (s.raise c).Inv := by
  obtain ⟨hdet, hedge, hdist, hcmd, htrig, hspeed, hle, _⟩ := hi
  obtain ⟨hne, hrange⟩ := c.code_range
  refine ⟨hdet, hedge, hdist, hcmd, htrig, hspeed, ?_, ?_⟩
  · rw [State.raise_status, Status.record_ecode]
    split
    · exact hrange
    · exact hle
  · have hcode : (s.raise c).status.ecode ≠ 0#4 := by
      rw [State.raise_status, Status.record_ecode]
      split
      · exact hne
      · assumption
    have hsticky : ¬((s.raise c).status.ill = false ∧ (s.raise c).status.accerr = false) := by
      cases h : c.isIllegalCommand <;> simp [h]
    exact iff_of_false hcode hsticky

theorem State.Inv.answer {s : State} (hi : s.Inv) (a : Access) (v : Word) : (s.answer a v).Inv := by
  unfold State.answer
  split <;> exact hi

/-- The reset values satisfy every clause by themselves (rule R200). -/
theorem State.inv_resetCore (s : State) : s.resetCore.Inv := by
  have hdet : s.resetCore.DetectorsSound := ⟨BitVec.zero_ushiftRight, BitVec.zero_ushiftRight⟩
  have hedge : s.resetCore.EdgesSound := BitVec.zero_and
  have htrig : s.resetCore.TriggerFlagsSound := ⟨fun h => Bool.noConfusion h.1, fun h => Bool.noConfusion h⟩
  have hcommand : s.resetCore.CommandSound := ⟨(nomatch ·), (nomatch ·), Nat.zero_le 127⟩
  have herr : s.resetCore.ErrorsSound := ⟨Nat.zero_le 6, fun _ => ⟨rfl, rfl⟩, fun _ => rfl⟩
  exact ⟨hdet, hedge, ⟨fun _ => rfl, fun _ => rfl⟩, fun _ => ⟨rfl, rfl, rfl, rfl, rfl⟩, htrig, hcommand, herr⟩

/-- Every event keeps the invariant, each by the lemma of the operation it ends in. -/
theorem EventLeaves.inv {s t : State} {e : Event} (h : EventLeaves s e t) (hl : Config.legal s.cfg = true)
    (hi : s.Inv) : t.Inv := by
  cases h with
  | reset => exact s.inv_resetCore
  | answered a v => exact hi.answer a v
  | accessError a c => exact (hi.raise c).answer a 0#64
  | argA | argB | argPos | argIn | nop => exact hi
  | illegalWord d => exact hi.raise (errorOf d)
  | axs i => exact hi.axisStep i
  | axs2 => exact (hi.axisStep .forward).axisStep .lateral
  | edg idx r hlt => exact hi.edgeObserve r hlt (Config.nedge_of_legal hl).2
  | illegalIndex => exact hi.raise .illIdx
  | lvs => exact hi.leverStep hl
  | cyc => exact ((hi.axisStep .forward).axisStep .lateral).leverStep (by simpa using hl)

/-- Settles O10: an idle step changes nothing, and the first event keeps the invariant. -/
theorem everyStepKeepsInvariant : Obligations.EveryStepKeepsInvariant := by
  intro s t hi hstep
  obtain ⟨hl, ⟨_, rfl⟩ | ⟨e, rest, _, he⟩⟩ := step_leaves hstep
  · exact hi
  · exact he.inv hl hi

end Sys2Proof.Machine

/-! The shared-sample discipline (rule R205) keeps the last samples of the two AxisTransforms equal (rule R55). -/

namespace Sys2Proof.Machine

/-! ### AxisStep on the last samples (rules R103, R104) -/

theorem State.axisStep_last_of_valid (s : State) (i j : AxisInst) (h : s.sampleValid = true) :
    (s.axisStep i).lastA j = (if i = j then s.argA else s.lastA j) ∧
      (s.axisStep i).lastB j = (if i = j then s.argB else s.lastB j) := by
  cases i
  · rw [State.axisStep_forward_of_valid s h]; cases j <;> exact ⟨rfl, rfl⟩
  · rw [State.axisStep_lateral_of_valid s h]; cases j <;> exact ⟨rfl, rfl⟩

theorem State.axisStep_last_of_failed (s : State) (i j : AxisInst) (h : s.sampleValid = false) :
    (s.axisStep i).lastA j = s.lastA j ∧ (s.axisStep i).lastB j = s.lastB j := by
  cases i
  · rw [State.axisStep_forward_of_failed s h]; cases j <;> exact ⟨rfl, rfl⟩
  · rw [State.axisStep_lateral_of_failed s h]; cases j <;> exact ⟨rfl, rfl⟩

/-! ### The invariant of a disciplined run -/

/-- Both AxisTransforms hold the same last sample. -/
def State.LastEqual (s : State) : Prop := s.lastAF = s.lastAL ∧ s.lastBF = s.lastBL

/-- What holds between two events of a disciplined run, by the pair still open in `sharedSample`: with no pair open the
last samples agree; after the first AXS of a pair its AxisTransform holds the sample that the operands still show, or,
where that read failed, the last samples still agree. -/
def State.SharesSample (s : State) : Option AxisInst → Prop
  | none => s.LastEqual
  | some i =>
    (s.sampleValid = true → s.lastA i = s.argA ∧ s.lastB i = s.argB) ∧ (s.sampleValid = false → s.LastEqual)

theorem State.LastEqual.axisStep_of_failed {s : State} (h : s.LastEqual) (i : AxisInst) (hv : s.sampleValid = false) :
    (s.axisStep i).LastEqual := by
  have hF := s.axisStep_last_of_failed i .forward hv
  have hL := s.axisStep_last_of_failed i .lateral hv
  exact ⟨hF.1.trans (h.1.trans hL.1.symm), hF.2.trans (h.2.trans hL.2.symm)⟩

theorem State.lastEqual_of_ne {s : State} {i j : AxisInst} (hij : i ≠ j)
    (h : s.lastA i = s.lastA j ∧ s.lastB i = s.lastB j) : s.LastEqual := by
  cases i <;> cases j
  · exact absurd rfl hij
  · exact h
  · exact ⟨h.1.symm, h.2.symm⟩
  · exact absurd rfl hij

theorem State.LastEqual.axisStep_opens {s : State} (h : s.LastEqual) (i : AxisInst) :
    (s.axisStep i).SharesSample (some i) := by
  constructor <;> intro hv <;> rw [State.axisStep_sampleValid] at hv
  · simpa using s.axisStep_last_of_valid i i hv
  · exact h.axisStep_of_failed i hv

/-- The second AXS of a pair brings the other AxisTransform to the same sample. -/
theorem State.SharesSample.axisStep_closes {s : State} {i j : AxisInst} (h : s.SharesSample (some i)) (hij : i ≠ j) :
    (s.axisStep j).LastEqual := by
  obtain ⟨hvalid, hfailed⟩ := h
  cases hv : s.sampleValid
  · exact (hfailed hv).axisStep_of_failed j hv
  · obtain ⟨hA, hB⟩ := hvalid hv
    refine State.lastEqual_of_ne hij ?_
    rw [(s.axisStep_last_of_valid j i hv).1, (s.axisStep_last_of_valid j i hv).2,
      (s.axisStep_last_of_valid j j hv).1, (s.axisStep_last_of_valid j j hv).2]
    simpa [hij.symm] using And.intro hA hB

/-- AXS2 and the sampling of CYC are a pair in themselves (rule R112). -/
theorem State.LastEqual.axisStep_both {s : State} (h : s.LastEqual) :
    ((s.axisStep .forward).axisStep .lateral).LastEqual :=
  (h.axisStep_opens .forward).axisStep_closes (by decide)

/-! ### The discipline, one event at a time -/

theorem sharedSample_closed_cons {e : Event} {es : List Event} (h : sharedSample none (e :: es) = true) :
    (∃ i, e.commandOf = some (.axs i) ∧ sharedSample (some i) es = true) ∨
      ((∀ i, e.commandOf ≠ some (.axs i)) ∧ sharedSample none es = true) := by
  unfold sharedSample at h
  split at h
  · exact .inl ⟨_, ‹_›, h⟩
  · exact .inr ⟨‹_›, h⟩

theorem sharedSample_open_cons {i : AxisInst} {e : Event} {es : List Event}
    (h : sharedSample (some i) (e :: es) = true) :
    (∃ j, e.commandOf = some (.axs j) ∧ i ≠ j ∧ sharedSample none es = true) ∨
      (e.isReset = false ∧ (∀ j, e.samples j = false) ∧ e.writesSample = false ∧ sharedSample (some i) es = true) := by
  unfold sharedSample at h
  split at h
  · rename_i j hc
    simp only [Bool.and_eq_true, decide_eq_true_eq] at h
    exact .inl ⟨j, hc, h⟩
  · cases h
  · cases h
  · cases h
  · rename_i haxs haxs2 hcyc _
    simp only [Bool.and_eq_true, Bool.not_eq_true'] at h
    obtain ⟨hw, hn, hrest⟩ := h
    refine .inr ⟨hn, fun j => ?_, hw, hrest⟩
    simp only [Event.samples, Bool.or_eq_false_iff, beq_eq_false_iff_ne]
    exact ⟨⟨haxs j, haxs2⟩, hcyc⟩

theorem EventLeaves.eq_axisStep {s t : State} {e : Event} {i : AxisInst} (h : EventLeaves s e t)
    (hc : e.commandOf = some (.axs i)) : t = s.axisStep i := by
  cases h with
  | reset h =>
    have hreset : e = .resetInput ∨ e.commandOf = some .rst := by simpa [Event.isReset] using h
    rcases hreset with rfl | h'
    · cases hc
    · cases hc.symm.trans h'
  | axs j _ hc' => cases hc.symm.trans hc'; rfl
  | _ => rename_i hc'; cases hc.symm.trans hc'

theorem EventLeaves.lastEqual {s t : State} {e : Event} (h : EventLeaves s e t)
    (haxs : ∀ i, e.commandOf ≠ some (.axs i)) (hs : s.LastEqual) : t.LastEqual := by
  cases h with
  | reset => exact ⟨rfl, rfl⟩
  | axs i _ hc => exact absurd hc (haxs i)
  | axs2 => exact hs.axisStep_both
  | cyc => exact hs.axisStep_both
  | answered | accessError => simpa [State.LastEqual] using hs
  | _ => exact hs

/-- An event inside an open pair leaves the sample where it is. -/
theorem EventLeaves.sharesSample_open {s t : State} {e : Event} {i : AxisInst} (h : EventLeaves s e t)
    (hn : e.isReset = false) (hs : ∀ j, e.samples j = false) (hw : e.writesSample = false)
    (hi : s.SharesSample (some i)) : t.SharesSample (some i) := by
  have hw' : (e.writesTo 0x10#8 = false ∧ e.writesTo 0x18#8 = false) ∧ e.writesTo 0x28#8 = false := by
    simpa only [Event.writesSample, Bool.or_eq_false_iff] using hw
  obtain ⟨⟨hwA, hwB⟩, hwIn⟩ := hw'
  obtain ⟨hA, hB, _, hIn⟩ := h.operands hn
  have hF : t.lastAF = s.lastAF ∧ t.lastBF = s.lastBF := h.last hn hs .forward
  have hL : t.lastAL = s.lastAL ∧ t.lastBL = s.lastBL := h.last hn hs .lateral
  have hlast := h.last hn hs i
  have hvalid : t.sampleValid = s.sampleValid := by simp only [State.sampleValid, State.va, State.vb, hIn hwIn]
  simpa only [State.SharesSample, State.LastEqual, hvalid, hA hwA, hB hwB, hF, hL, hlast] using hi

/-- Every disciplined run completes, from any point in it, and closes with equal last samples. -/
theorem runs_of_sharedSample (es : List Event) :
    ∀ (o : Option AxisInst) (s : State), Config.legal s.cfg = true → sharedSample o es = true → s.SharesSample o →
      ∃ t, Runs es.length (s.withPending es) t ∧ t.LastEqual := by
  induction es with
  | nil =>
    intro o s _ hd hs
    cases o with
    | none => exact ⟨_, rfl, hs⟩
    | some i => cases hd
  | cons e es ih =>
    intro o s hl hd hs
    obtain ⟨t, _, hstep, _, heffect⟩ := stepped_withPending_cons s e es hl
    obtain ⟨hpending, hcfg⟩ := heffect.frame
    have hleaves := heffect.leaves
    have hnext : ∃ o', sharedSample o' es = true ∧ t.SharesSample o' := by
      cases o with
      | none =>
        rcases sharedSample_closed_cons hd with ⟨i, hc, hrest⟩ | ⟨haxs, hrest⟩
        · rw [hleaves.eq_axisStep hc]
          exact ⟨some i, hrest, State.LastEqual.axisStep_opens (s := s.withPending es) hs i⟩
        · exact ⟨none, hrest, hleaves.lastEqual haxs hs⟩
      | some i =>
        rcases sharedSample_open_cons hd with ⟨j, hc, hij, hrest⟩ | ⟨hn, hsamples, hw, hrest⟩
        · rw [hleaves.eq_axisStep hc]
          exact ⟨none, hrest, State.SharesSample.axisStep_closes (s := s.withPending es) hs hij⟩
        · exact ⟨some i, hrest, hleaves.sharesSample_open hn hsamples hw hs⟩
    obtain ⟨o', hrest, hs'⟩ := hnext
    obtain ⟨u, hrun, hu⟩ := ih o' t (hcfg ▸ hl) hrest hs'
    have hself : t.withPending es = t := by
      rw [show es = t.pending from hpending.symm]; rfl
    rw [hself] at hrun
    exact ⟨u, ⟨t, hstep, hrun⟩, hu⟩

/-- Settles O45: the run starts with no pair open. -/
theorem disciplineKeepsLastSamplesEqual : Obligations.DisciplineKeepsLastSamplesEqual :=
  fun s es hl hd hA hB => runs_of_sharedSample es none s hl hd ⟨hA, hB⟩

end Sys2Proof.Machine

/-! What every step keeps of the configuration, the operands and the error fields (rules R30 to R34, R46, R181). -/

namespace Sys2Proof.Machine

/-- Settles O32: an event keeps the configuration, by its frame. -/
theorem configurationNeverChanges : Obligations.ConfigurationNeverChanges := by
  intro s t hstep
  obtain ⟨_, ⟨_, rfl⟩ | ⟨e, rest, _, he⟩⟩ := step_effect hstep
  · rfl
  · exact he.frame.2

/-- Settles O33: the event that is no reset leaves each operand it does not write. -/
theorem operandsChangeOnlyByWriteOrReset : Obligations.OperandsChangeOnlyByWriteOrReset := by
  intro s t hstep hreset
  obtain ⟨_, ⟨_, rfl⟩ | ⟨e, rest, hnext, he⟩⟩ := step_leaves hstep
  · exact ⟨fun _ => rfl, fun _ => rfl, fun _ => rfl, fun _ => rfl⟩
  · obtain ⟨hA, hB, hPos, hIn⟩ := he.operands (hreset e hnext)
    exact ⟨fun h => hA (h e hnext), fun h => hB (h e hnext), fun h => hPos (h e hnext), fun h => hIn (h e hnext)⟩

/-- The errors t records are still recorded in u, and the first code stays (rules R30, R181). -/
def Status.ErrorsKept (t u : Status) : Prop :=
  (t.ill = true → u.ill = true) ∧ (t.accerr = true → u.accerr = true) ∧ (t.ecode ≠ 0#4 → u.ecode = t.ecode)

theorem Status.ErrorsKept.refl {t : Status} : t.ErrorsKept t := ⟨id, id, fun _ => Eq.refl _⟩

theorem Status.errorsKept_record (t : Status) (c : ErrorCode) : t.ErrorsKept (t.record c) :=
  ⟨fun h => by simp [h], fun h => by simp [h], fun h => by simp [h]⟩

theorem State.errorsKept_axisStep (s : State) (i : AxisInst) {t : Status} (h : t.ErrorsKept s.status) :
    t.ErrorsKept (s.axisStep i).status := by
  rw [State.axisStep_status]
  cases i <;> exact h

theorem State.errorsKept_leverStep (s : State) {t : Status} (h : t.ErrorsKept s.status) :
    t.ErrorsKept s.leverStep.status := h

theorem EventLeaves.errorsKept {s t : State} {e : Event} (h : EventLeaves s e t) (hn : e.isReset = false) :
    s.status.ErrorsKept t.status := by
  have hboth : s.status.ErrorsKept ((s.axisStep .forward).axisStep .lateral).status :=
    State.errorsKept_axisStep _ _ (State.errorsKept_axisStep _ _ .refl)
  cases h with
  | reset h => rw [h] at hn; cases hn
  | answered a v => rw [State.answer_status]; exact .refl
  | accessError a c => rw [State.accessError_status]; exact s.status.errorsKept_record c
  | illegalWord | illegalIndex => exact s.status.errorsKept_record _
  | axs i => exact s.errorsKept_axisStep i .refl
  | axs2 => exact hboth
  | cyc => exact State.errorsKept_leverStep _ hboth
  | argA | argB | argPos | argIn | nop | edg | lvs => exact .refl

theorem EventLeaves.errors_of_reset {s t : State} {e : Event} (h : EventLeaves s e t) (hr : e.isReset = true) :
    t.status = Status.reset := by
  cases h with
  | reset => rfl
  | _ => simp_all

/-- Settles O34: no other event clears an error field, and a reset leaves STATUS at its reset value. -/
theorem errorFieldsAreSticky : Obligations.ErrorFieldsAreSticky := by
  intro s t hstep
  obtain ⟨_, ⟨hnext, rfl⟩ | ⟨e, rest, hnext, he⟩⟩ := step_leaves hstep
  · refine ⟨fun _ => Status.ErrorsKept.refl, ?_⟩
    rintro ⟨e, he, _⟩
    cases hnext.symm.trans he
  · refine ⟨fun hreset => he.errorsKept (hreset e hnext), ?_⟩
    rintro ⟨e', he', hreset⟩
    cases hnext.symm.trans he'
    rw [he.errors_of_reset hreset]
    exact ⟨rfl, rfl, rfl⟩

end Sys2Proof.Machine

/-! One well-formed access to a register, and any access to a reserved offset (rules R21, R24, R45, R62, R63). -/

namespace Sys2Proof.Machine

/-! ### The next access -/

theorem step_of_pending {s : State} {e : Event} {rest : List Event} (hl : Config.legal s.cfg = true)
    (hp : s.pending = e :: rest) : step s = (s.withPending rest).happen e := by
  have hself : s.withPending (e :: rest) = s := by rw [← hp]; rfl
  simpa only [hself] using step_withPending_cons s e rest hl

theorem RegName.offset_aligned (r : RegName) : r.offset.toNat % 8 = 0 := by cases r <;> rfl

theorem State.happen_read (s : State) (ag : Agent) (r : RegName) :
    s.happen (.access ⟨ag, r.offset, 8, .read⟩) = .next { s with replies := ⟨ag, s.readReg r⟩ :: s.replies } := by
  simp [State.happen, State.perform, Access.wellFormed, RegName.offset_aligned, State.answer]

theorem State.happen_write (s : State) (ag : Agent) (r : RegName) (v : Word) :
    s.happen (.access ⟨ag, r.offset, 8, .write v⟩) = s.writeReg r v := by
  simp [State.happen, State.perform, Access.wellFormed, RegName.offset_aligned]

/-- Settles O1: the write to CMD decodes the word and runs its command. -/
theorem stepRunsDecodedCommand : Obligations.StepRunsDecodedCommand := by
  intro s ag v i rest hl hp hd
  calc step s = (s.withPending rest).happen (.access ⟨ag, RegName.cmd.offset, 8, .write v⟩) := step_of_pending hl hp
    _ = (s.withPending rest).command v := State.happen_write _ ag .cmd v
    _ = exec i (s.withPending rest) := by rw [State.command, hd]

/-- Settles O23: each operand register's write, at its own width. -/
theorem writesStoreOperands : Obligations.WritesStoreOperands := by
  intro s ag v rest hl
  have hwrite (r : RegName) (hp : s.pending = .access ⟨ag, r.offset, 8, .write v⟩ :: rest) :
      step s = (s.withPending rest).writeReg r v :=
    (step_of_pending hl hp).trans (State.happen_write _ ag r v)
  refine ⟨fun hp => ?_, fun hp => ?_, hwrite .argPos, fun hp => ?_⟩
  · rw [hwrite .argA hp, BitVec.ofNat_toNat]; rfl
  · rw [hwrite .argB hp, BitVec.ofNat_toNat]; rfl
  · rw [hwrite .argIn hp, BitVec.ofNat_toNat]; rfl

/-! ### Reserved offsets -/

/-- An access error in the terms of the spec: an error of the second kind, with its code (rules R181, R183). -/
theorem State.accessError_eq_recorded (s : State) (a : Access) (c : ErrorCode) (hc : c.isIllegalCommand = false) :
    s.accessError a c = accessErrorRecorded s a c.code := by
  unfold State.accessError State.answer accessErrorRecorded State.raise Status.record
  cases a.op <;> simp [hc]

theorem RegName.at_reserved {off : BitVec 8} (h : off.toNat ∈ [0xE0, 0xE8, 0xF0, 0xF8]) :
    RegName.at off = none ∧ off.toNat % 8 = 0 := by
  revert off
  decide

/-- Settles O25: the form check comes before the reserved offset (rule R185), and all four offsets are aligned. -/
theorem reservedOffsetOnlyRecorded : Obligations.ReservedOffsetOnlyRecorded := by
  intro s a rest hl hp hoff
  obtain ⟨hnone, haligned⟩ := RegName.at_reserved hoff
  rw [step_of_pending hl hp]
  rcases State.perform_cases (s.withPending rest) a with ⟨hw, h⟩ | ⟨hw, _, h⟩ | ⟨r, _, hr, _⟩ | ⟨r, _, _, hr, _⟩
  · have hwidth : a.width ≠ 8 := fun h8 => by simp [Access.wellFormed, h8, haligned] at hw
    rw [if_neg hwidth]
    exact h.trans (congrArg _ (State.accessError_eq_recorded _ a .accForm rfl))
  · rw [if_pos (Access.wellFormed_width hw)]
    exact h.trans (congrArg _ (State.accessError_eq_recorded _ a .accRsv rfl))
  · cases hnone.symm.trans hr
  · cases hnone.symm.trans hr

/-! ### The register map -/

/-- The number a concatenation stands for: the high part shifted up by the width of the low one. -/
theorem toNat_append_eq_add {m n : Nat} (x : BitVec m) (y : BitVec n) :
    (x ++ y).toNat = x.toNat * 2 ^ n + y.toNat := by
  rw [BitVec.toNat_append, ← Nat.shiftLeft_add_eq_or_of_lt y.isLt, Nat.shiftLeft_eq]

theorem LeverState.active_eq (st : LeverState) : st.active = decide (st ≠ .idle) := by cases st <;> rfl

theorem LeverState.retract_eq (st : LeverState) : st.retract = decide (st = .retracting) := by cases st <;> rfl

theorem bitAt_eq (n : Nat) (b : Bool) : bitAt n b = b.toNat * 2 ^ n := by cases b <;> simp [bitAt]

/-- The concatenated STATUS is the sum of its fields at their places (rule R25). -/
theorem Status.toWord_eq_statusWord (t : Status) : t.toWord = statusWord t := by
  have hcode : t.ecode.toNat < 16 := t.ecode.isLt
  have hunav := And.intro (Bool.toNat_le t.unavF) (Bool.toNat_le t.unavL)
  have hlever := And.intro (Bool.toNat_le (decide (t.lever ≠ .idle))) (Bool.toNat_le (decide (t.lever = .retracting)))
  have hcmdv := Bool.toNat_le t.cmdv
  have htrigger := And.intro (Bool.toNat_le t.tacc) (Bool.toNat_le t.tign)
  have herror := And.intro (Bool.toNat_le t.ill) (Bool.toNat_le t.accerr)
  refine BitVec.eq_of_toNat_eq ?_
  simp only [Status.toWord, statusWord, toNat_append_eq_add, bitAt_eq, LeverState.active_eq, LeverState.retract_eq,
    BitVec.toNat_ofNat, BitVec.toNat_ofBool]
  omega

theorem configIdWord_eq (c : Config) : configIdWord c = BitVec.ofNat 64 (0x100 + c.nedge % 256) := by
  refine BitVec.eq_of_toNat_eq ?_
  simp only [configIdWord, toNat_append_eq_add, BitVec.toNat_ofNat]
  omega

theorem configSpeedsWord_eq (c : Config) :
    configSpeedsWord c = BitVec.ofNat 64 (c.boost.toNat + c.fast.toNat * 2 ^ 8 + c.slow.toNat * 2 ^ 16
      + c.hold.toNat * 2 ^ 24) := by
  refine BitVec.eq_of_toNat_eq ?_
  simp only [configSpeedsWord, toNat_append_eq_add, BitVec.toNat_ofNat]
  omega

/-- Rule R21's table lists each register at its offset with the value it reads as. -/
theorem registerMap_eq (s : State) : registerMap s = RegName.all.map fun r => (r.offset.toNat, s.readReg r) := by
  simp only [registerMap, RegName.all, List.map_cons, List.map_nil, State.readReg, ← Status.toWord_eq_statusWord,
    ← configIdWord_eq, ← configSpeedsWord_eq, BitVec.ofNat_toNat]
  rfl

/-- Settles O22: the entry of the table is a register at its offset, and the access reads it. -/
theorem readsReturnTheRegisterMap : Obligations.ReadsReturnTheRegisterMap := by
  intro s ag off v rest hl hmem hp
  rw [registerMap_eq, List.mem_map] at hmem
  obtain ⟨r, _, hentry⟩ := hmem
  cases hentry
  rw [BitVec.ofNat_toNat, BitVec.setWidth_eq] at hp
  calc step s = (s.withPending rest).happen (.access ⟨ag, r.offset, 8, .read⟩) := step_of_pending hl hp
    _ = .next { s with pending := rest, replies := ⟨ag, (s.withPending rest).readReg r⟩ :: s.replies } :=
      State.happen_read _ ag r
    _ = .next { s with pending := rest, replies := ⟨ag, s.readReg r⟩ :: s.replies } := by cases r <;> rfl

end Sys2Proof.Machine

/-! An event on the registers and on what lies outside the core: what it does to the registers depends on neither the
accesses to come, nor the replies so far, nor the agent that makes it (rules R23, R68, R69). -/

namespace Sys2Proof.Machine

/-! ### Outside the core -/

/-- s with these events still to happen and these values returned, the two fields that are not the core's (rule R23). -/
def State.withOutside (s : State) (es : List Event) (rs : List Reply) : State := { s with pending := es, replies := rs }

theorem State.withPending_of_pending {s : State} {es : List Event} (h : s.pending = es) : s.withPending es = s := by
  rw [← h]
  rfl

/-- States with equal windows differ only outside the core. -/
theorem State.eq_withOutside_of_window {s u : State} (h : s.window = u.window) :
    u = s.withOutside u.pending u.replies := by
  calc u = u.window.withOutside u.pending u.replies := rfl
    _ = s.window.withOutside u.pending u.replies := by rw [h]
    _ = s.withOutside u.pending u.replies := rfl

@[simp] theorem Event.untagged_untagged (e : Event) : e.untagged.untagged = e.untagged := by cases e <;> rfl

/-- The reply an access adds when it is answered with v: a write adds none. -/
def Access.answers (a : Access) (v : Word) : List Reply :=
  match a.op with
  | .read => [⟨a.agent, v⟩]
  | .write _ => []

/-- The value a read returns: its register's, and 0 where the read is an error (rules R61, R62). -/
def State.readValue (s : State) (a : Access) : Word :=
  if a.wellFormed then (RegName.at a.off).elim 0#64 s.readReg else 0#64

/-- The replies an event adds. -/
def State.repliesTo (s : State) : Event → List Reply
  | .access a => a.answers (s.readValue a)
  | .resetInput => []

theorem State.repliesTo_untagged (s : State) (e : Event) :
    s.repliesTo e.untagged = (s.repliesTo e).map fun r => { r with agent := .host } := by
  cases e with
  | resetInput => rfl
  | access a =>
    obtain ⟨ag, off, w, op⟩ := a
    cases op <;> rfl

/-! ### One access, in the order of the checks of rule R185 -/

theorem State.perform_of_malformed (s : State) {a : Access} (hw : a.wellFormed = false) :
    s.perform a = .next (s.accessError a .accForm) := by
  rw [State.perform, hw, if_neg Bool.false_ne_true]

theorem State.perform_of_reserved (s : State) {a : Access} (hw : a.wellFormed = true) (hr : RegName.at a.off = none) :
    s.perform a = .next (s.accessError a .accRsv) := by
  simp only [State.perform, hw, hr, if_true]

theorem State.perform_of_read (s : State) {a : Access} {r : RegName} (hw : a.wellFormed = true)
    (hr : RegName.at a.off = some r) (ho : a.op = .read) : s.perform a = .next (s.answer a (s.readReg r)) := by
  simp only [State.perform, hw, hr, ho, if_true]

theorem State.perform_of_write (s : State) {a : Access} {r : RegName} {v : Word} (hw : a.wellFormed = true)
    (hr : RegName.at a.off = some r) (ho : a.op = .write v) : s.perform a = s.writeReg r v := by
  simp only [State.perform, hw, hr, ho, if_true]

/-! ### The operations do not see what is outside the core -/

theorem State.readReg_withOutside (s : State) (es : List Event) (rs : List Reply) (r : RegName) :
    (s.withOutside es rs).readReg r = s.readReg r := by cases r <;> rfl

theorem State.axisStep_withOutside (s : State) (es : List Event) (rs : List Reply) (i : AxisInst) :
    (s.withOutside es rs).axisStep i = (s.axisStep i).withOutside es rs := by
  have hsame : (s.withOutside es rs).sampleValid = s.sampleValid := rfl
  cases hv : s.sampleValid <;> cases i
  · rw [State.axisStep_forward_of_failed _ (hsame.trans hv), State.axisStep_forward_of_failed s hv]; rfl
  · rw [State.axisStep_lateral_of_failed _ (hsame.trans hv), State.axisStep_lateral_of_failed s hv]; rfl
  · rw [State.axisStep_forward_of_valid _ (hsame.trans hv), State.axisStep_forward_of_valid s hv]; rfl
  · rw [State.axisStep_lateral_of_valid _ (hsame.trans hv), State.axisStep_lateral_of_valid s hv]; rfl

theorem State.leverStep_withOutside (s : State) (es : List Event) (rs : List Reply) :
    (s.withOutside es rs).leverStep = s.leverStep.withOutside es rs := rfl

theorem exec_withOutside {i : Instr} {s t : State} (h : exec i s = .next t) (es : List Event) (rs : List Reply) :
    exec i (s.withOutside es rs) = .next (t.withOutside es rs) := by
  cases i with
  | nop => cases h; rfl
  | axs ax => cases h; exact congrArg _ (s.axisStep_withOutside es rs ax)
  | axs2 =>
    cases h
    rw [← State.axisStep_withOutside, ← State.axisStep_withOutside]
    rfl
  | edg idx r =>
    by_cases hidx : idx.toNat < 2 ∨ s.cfg.nedge ≤ idx.toNat
    · cases (if_pos hidx).symm.trans h
      exact if_pos hidx
    · cases (if_neg hidx).symm.trans h
      exact if_neg hidx
  | lvs => cases h; rfl
  | cyc =>
    cases h
    rw [← State.leverStep_withOutside, ← State.axisStep_withOutside, ← State.axisStep_withOutside]
    rfl
  | rst => cases h; rfl

theorem State.command_withOutside {s t : State} {v : Word} (h : s.command v = .next t) (es : List Event)
    (rs : List Reply) : (s.withOutside es rs).command v = .next (t.withOutside es rs) := by
  unfold State.command at *
  cases hd : decodeCommand v with
  | ok i =>
    rw [hd] at h
    exact exec_withOutside h es rs
  | error d =>
    rw [hd] at h
    cases h
    rfl

theorem State.writeReg_withOutside {s t : State} {r : RegName} {v : Word} (h : s.writeReg r v = .next t)
    (es : List Event) (rs : List Reply) : (s.withOutside es rs).writeReg r v = .next (t.withOutside es rs) := by
  cases r with
  | cmd => exact State.command_withOutside h es rs
  | _ => cases h; rfl

theorem State.answer_withOutside (s : State) (es : List Event) (rs : List Reply) {a b : Access} (hop : b.op = a.op)
    (v : Word) : (s.withOutside es rs).answer b v = (s.answer a v).withOutside es (b.answers v ++ rs) := by
  unfold State.answer Access.answers
  rw [hop]
  cases a.op <;> rfl

/-- Access a in s and the same access by any agent, in a state that differs from s only outside the core. -/
theorem State.perform_withOutside {s t : State} {a b : Access} (h : s.perform a = .next t)
    (hform : b.wellFormed = a.wellFormed) (hoff : b.off = a.off) (hop : b.op = a.op) (es : List Event)
    (rs : List Reply) :
    (s.withOutside es rs).perform b = .next (t.withOutside es (b.answers (s.readValue b) ++ rs)) := by
  cases hw : a.wellFormed <;> rw [hw] at hform
  · rw [State.perform_of_malformed s hw] at h
    cases h
    rw [State.perform_of_malformed _ hform, State.readValue, hform]
    exact congrArg _ ((s.raise .accForm).answer_withOutside es rs hop 0#64)
  · cases hr : RegName.at a.off with
    | none =>
      rw [State.perform_of_reserved s hw hr] at h
      cases h
      rw [← hoff] at hr
      rw [State.perform_of_reserved _ hform hr, State.readValue, hform, hr]
      exact congrArg _ ((s.raise .accRsv).answer_withOutside es rs hop 0#64)
    | some r =>
      cases ho : a.op with
      | read =>
        rw [State.perform_of_read s hw hr ho] at h
        cases h
        rw [← hoff] at hr
        rw [State.perform_of_read _ hform hr (hop.trans ho), State.readValue, hform, hr, State.readReg_withOutside]
        exact congrArg _ (s.answer_withOutside es rs hop (s.readReg r))
      | write v =>
        rw [State.perform_of_write s hw hr ho] at h
        rw [← hoff] at hr
        rw [State.perform_of_write _ hform hr (hop.trans ho), Access.answers, hop, ho]
        exact State.writeReg_withOutside h es rs

/-- Event e in s and the same event by any agent, in a state that differs from s only outside the core: the registers
come out alike, and the replies the event adds come before those there were. -/
theorem State.happen_withOutside {s t : State} {e e' : Event} (h : s.happen e = .next t)
    (he : e'.untagged = e.untagged) (es : List Event) (rs : List Reply) :
    (s.withOutside es rs).happen e' = .next (t.withOutside es (s.repliesTo e' ++ rs)) := by
  cases e with
  | resetInput =>
    cases e' with
    | resetInput => cases h; rfl
    | access b => cases he
  | access a =>
    cases e' with
    | resetInput => cases he
    | access b =>
      obtain ⟨_, off, w, op⟩ := a
      obtain ⟨ag, _, _, _⟩ := b
      cases he
      exact State.perform_withOutside (b := ⟨ag, off, w, op⟩) h rfl rfl rfl es rs

/-- An event leaves the accesses to come, and adds its replies to those there were. -/
theorem State.happen_outside {s t : State} {e : Event} (h : s.happen e = .next t) :
    t.pending = s.pending ∧ t.replies = s.repliesTo e ++ s.replies := by
  have hself : Host.Outcome.next t = .next (t.withOutside s.pending (s.repliesTo e ++ s.replies)) :=
    h.symm.trans (State.happen_withOutside h rfl s.pending s.replies)
  have ht : t = t.withOutside s.pending (s.repliesTo e ++ s.replies) := Host.Outcome.next.inj hself
  exact ⟨congrArg (·.pending) ht, congrArg (·.replies) ht⟩

theorem State.happen_withPending {s t : State} {e : Event} (h : s.happen e = .next t) (es : List Event) :
    (s.withPending es).happen e = .next (t.withPending es) := by
  have hmoved := State.happen_withOutside h rfl es s.replies
  rw [← (State.happen_outside h).2] at hmoved
  exact hmoved

theorem State.happen_completes (s : State) (e : Event) (hl : Config.legal s.cfg = true) :
    ∃ t, s.happen e = .next t := by
  obtain ⟨t, h, _⟩ := stepped_withPending_cons s e s.pending hl
  exact ⟨t, h⟩

theorem State.happen_cfg {s t : State} {e : Event} (h : s.happen e = .next t) : t.cfg = s.cfg :=
  Effect.frame (e := e) (h ▸ s.happen_effect e) |>.2

/-- A run's first event, performed by itself. -/
theorem runs_cons {s t u : State} {e : Event} {es : List Event} {n : Nat} (hl : Config.legal s.cfg = true)
    (h : s.happen e = .next t) (hrun : Runs n (t.withPending es) u) : Runs (n + 1) (s.withPending (e :: es)) u :=
  ⟨t.withPending es, (step_withPending_cons s e es hl).trans (State.happen_withPending h es), hrun⟩

end Sys2Proof.Machine

/-! The reporter's reads (rules R62, R66, R68, R209), the agents (rule R69), and the completion of every step
(rules R67, R214). -/

namespace Sys2Proof.Machine

/-! ### What the host can tell of a state -/

/-- The host cannot tell s from u: equal registers, and equal values returned to it. -/
def State.SameToHost (s u : State) : Prop := s.window = u.window ∧ s.hostReplies = u.hostReplies

/-- An event in two states the host cannot tell apart leaves two such states. -/
theorem State.SameToHost.happen {s t u : State} {e : Event} (hsame : s.SameToHost u) (h : s.happen e = .next t) :
    ∃ u', u.happen e = .next u' ∧ t.SameToHost u' := by
  obtain ⟨hwindow, hhost⟩ := hsame
  refine ⟨t.withOutside u.pending (s.repliesTo e ++ u.replies), ?_, rfl, ?_⟩
  · rw [State.eq_withOutside_of_window hwindow]
    exact State.happen_withOutside h rfl u.pending u.replies
  · have hreplies : (s.repliesTo e ++ s.replies).filter (fun r => r.agent == .host) =
        (s.repliesTo e ++ u.replies).filter fun r => r.agent == .host := by
      rw [List.filter_append, List.filter_append]
      exact congrArg _ hhost
    rw [← (State.happen_outside h).2] at hreplies
    exact hreplies

theorem RegName.exists_at {off : BitVec 8} (haligned : off.toNat % 8 = 0) (hlt : off.toNat < 0xE0) :
    ∃ r, RegName.at off = some r := by
  refine Option.isSome_iff_exists.1 ?_
  revert off
  decide

/-- A read by the reporter that raises no error is answered to the reporter and does nothing else. -/
theorem State.happen_reporterRead (s : State) {e : Event} (hrep : e.byReporter = true) (hclean : e.isCleanRead = true) :
    ∃ v, s.happen e = .next { s with replies := ⟨.reporter, v⟩ :: s.replies } := by
  cases e with
  | resetInput => cases hrep
  | access a =>
    obtain ⟨ag, off, w, op⟩ := a
    cases op with
    | write v => cases hclean
    | read =>
      simp only [Event.byReporter, beq_iff_eq] at hrep
      simp only [Event.isCleanRead, Bool.and_eq_true, beq_iff_eq, decide_eq_true_eq] at hclean
      obtain ⟨⟨hw, haligned⟩, hlt⟩ := hclean
      obtain ⟨r, hr⟩ := RegName.exists_at haligned hlt
      obtain rfl := RegName.offset_of_at hr
      subst hrep hw
      exact ⟨s.readReg r, s.happen_read .reporter r⟩

/-- The host cannot tell whether the reporter has read. -/
theorem State.SameToHost.of_reporterReply {s u : State} (h : s.SameToHost u) (v : Word) :
    State.SameToHost { s with replies := ⟨.reporter, v⟩ :: s.replies } u := h

/-- Two runs from states the host cannot tell apart, one with the reporter's reads and one without: each read of the
reporter is a step of the first run only, and every other event is a step of both. -/
theorem runs_withoutReporter (es : List Event) :
    ∀ s u : State, Config.legal s.cfg = true → s.SameToHost u → reporterOnlyReads es = true →
      ∃ t t', Runs es.length (s.withPending es) t ∧
        Runs (withoutReporter es).length (u.withPending (withoutReporter es)) t' ∧ t.SameToHost t' := by
  induction es with
  | nil => exact fun s u _ hsame _ => ⟨_, _, rfl, rfl, hsame⟩
  | cons e es ih =>
    intro s u hl hsame hreads
    have hcfg : u.cfg = s.cfg := congrArg (·.cfg) hsame.1.symm
    simp only [reporterOnlyReads, List.all_cons, Bool.and_eq_true, Bool.or_eq_true, Bool.not_eq_true'] at hreads
    obtain ⟨he, hes⟩ := hreads
    cases hrep : e.byReporter with
    | true =>
      have hskip : withoutReporter (e :: es) = withoutReporter es := List.filter_cons_of_neg (by simp [hrep])
      obtain ⟨v, h⟩ := s.happen_reporterRead hrep (he.resolve_left (by simp [hrep]))
      obtain ⟨t, t', hrun, hrun', ht⟩ :=
        ih { s with replies := ⟨.reporter, v⟩ :: s.replies } u hl (hsame.of_reporterReply v) hes
      rw [hskip]
      exact ⟨t, t', runs_cons hl h hrun, hrun', ht⟩
    | false =>
      have hkeep : withoutReporter (e :: es) = e :: withoutReporter es := List.filter_cons_of_pos (by simp [hrep])
      obtain ⟨s', h⟩ := s.happen_completes e hl
      obtain ⟨u', h', hsame'⟩ := hsame.happen h
      obtain ⟨t, t', hrun, hrun', ht⟩ := ih s' u' (by rw [State.happen_cfg h, hl]) hsame' hes
      rw [hkeep]
      exact ⟨t, t', runs_cons hl h hrun, runs_cons (by rw [hcfg, hl]) h' hrun', ht⟩

/-- Settles O37: both runs start from one state. -/
theorem reporterReadsAreInvisible : Obligations.ReporterReadsAreInvisible :=
  fun s es hl hreads => runs_withoutReporter es s s hl ⟨rfl, rfl⟩ hreads

/-! ### Agents and completion -/

/-- Settles O36: a state and its untagged form differ only outside the core. -/
theorem agentsMakeNoDifference : Obligations.AgentsMakeNoDifference := by
  intro s t hstep
  rcases step_cases s with ⟨_, h⟩ | ⟨hl, hp, h⟩ | ⟨e, rest, hl, hp, h⟩ <;> rw [h] at hstep
  · cases hstep
  · cases hstep
    rcases step_cases s.untagged with ⟨hl', _⟩ | ⟨_, _, h'⟩ | ⟨e, rest, _, hp', _⟩
    · cases hl.symm.trans hl'
    · exact h'
    · simp [State.untagged, hp] at hp'
  · obtain ⟨hpending, hreplies⟩ := State.happen_outside hstep
    have hp' : s.untagged.pending = e.untagged :: rest.map Event.untagged := by rw [State.untagged, hp]; rfl
    have ht : t.untagged = t.withOutside (rest.map Event.untagged)
        ((s.withPending rest).repliesTo e.untagged ++ s.untagged.replies) := by
      rw [State.untagged, hpending, hreplies, List.map_append, State.repliesTo_untagged]
      rfl
    rw [step_of_pending (s := s.untagged) hl hp', ht]
    exact State.happen_withOutside hstep e.untagged_untagged _ _

/-- Settles O30: the event at the front completes, and what it answers is `repliesTo`. -/
theorem everyEventCompletes : Obligations.EveryEventCompletes := by
  intro s hl
  rcases step_cases s with ⟨hl', _⟩ | ⟨_, hp, h⟩ | ⟨e, rest, _, hp, h⟩
  · cases hl.symm.trans hl'
  · exact ⟨s, h, by rw [hp]; rfl, .inr ⟨by simp [State.nextEvent, hp], rfl⟩⟩
  · obtain ⟨t, ht⟩ := (s.withPending rest).happen_completes e hl
    obtain ⟨hpending, hreplies⟩ := State.happen_outside ht
    refine ⟨t, h.trans ht, by rw [hpending, hp]; rfl, ?_⟩
    have hnext : s.nextEvent = some e := by rw [State.nextEvent, hp]; rfl
    rw [hnext, hreplies]
    cases e with
    | resetInput => exact .inr ⟨by simp, rfl⟩
    | access a =>
      obtain ⟨ag, off, w, op⟩ := a
      cases op with
      | read => exact .inl ⟨ag, off, w, _, rfl, rfl⟩
      | write v => exact .inr ⟨by simp, rfl⟩

end Sys2Proof.Machine

/-! The line `cycle` (rule R90), erroneous accesses (rules R61, R63), the window's addresses (rule R60) and the bytes of
a register (rule R64). -/

namespace Sys2Proof.Machine

/-- The five inputs of rule R90's `inputs` word, as ARG_IN stores them. -/
theorem inputsWord_setWidth (va vb t0 t1 aux : Bool) :
    (inputsWord va vb t0 t1 aux).setWidth 5 =
      BitVec.ofNat 5 (bitAt 0 va + bitAt 1 vb + bitAt 2 t0 + bitAt 3 t1 + bitAt 4 aux) := by
  revert va vb t0 t1 aux
  decide

theorem decodeCommand_encode_cyc : decodeCommand (encode .cyc) = .ok .cyc := by decide

theorem State.happen_write_cyc (s : State) :
    s.happen (Event.write .cmd (encode .cyc)) = .next ((s.axisStep .forward).axisStep .lateral).leverStep := by
  calc s.happen (Event.write .cmd (encode .cyc)) = s.command (encode .cyc) := s.happen_write .host .cmd _
    _ = exec .cyc s := by rw [State.command, decodeCommand_encode_cyc]

/-- Settles O29: four writes store the operands, and the fifth runs CYC on them. -/
theorem cycleLineRunsOneCycle : Obligations.CycleLineRunsOneCycle := by
  intro s a b va vb t0 t1 aux p hl hp
  simp only [← inputsWord_setWidth, BitVec.ofNat_toNat]
  refine ⟨_, ?_, rfl⟩
  refine runs_cons hl (State.happen_write _ .host .argA a) ?_
  refine runs_cons hl (State.happen_write _ .host .argB b) ?_
  refine runs_cons hl (State.happen_write _ .host .argIn _) ?_
  refine runs_cons hl (State.happen_write _ .host .argPos p) ?_
  refine runs_cons hl (State.happen_write_cyc _) ?_
  exact State.withPending_of_pending (by simp [hp])

/-! ### Erroneous accesses -/

/-- Settles O24: the form check is the first (rule R185). -/
theorem malformedAccessOnlyRecorded : Obligations.MalformedAccessOnlyRecorded := by
  intro s a rest hl hp hform
  have hw : a.wellFormed = false := by
    rw [Access.wellFormed, Bool.and_eq_false_iff]
    simpa using hform
  calc step s = (s.withPending rest).perform a := step_of_pending hl hp
    _ = .next ((s.withPending rest).accessError a .accForm) := State.perform_of_malformed _ hw
    _ = .next (accessErrorRecorded (s.withPending rest) a 4#4) :=
      congrArg _ (State.accessError_eq_recorded _ a .accForm rfl)

/-- At the offset of STATUS and from RES_F on stands no register that can be written (rules R21, R63). -/
theorem State.writeReg_of_readOnly (s : State) (r : RegName) (v : Word)
    (h : r.offset.toNat = 0x08 ∨ 0x30 ≤ r.offset.toNat) : s.writeReg r v = .next (s.raise .accRo) := by
  rcases s.writeReg_cases r v with ⟨rfl, _⟩ | ⟨rfl, _⟩ | ⟨rfl, _⟩ | ⟨rfl, _⟩ | ⟨rfl, _⟩ | hro
  case inr.inr.inr.inr.inr => exact hro
  all_goals exact absurd h (by decide)

/-- Settles O26: a register stands at the offset, and it is none of the five that can be written. -/
theorem readOnlyWriteOnlyRecorded : Obligations.ReadOnlyWriteOnlyRecorded := by
  intro s a v rest hl hp ho hwidth haligned hoff
  have hw : a.wellFormed = true := by simp [Access.wellFormed, hwidth, haligned]
  obtain ⟨r, hr⟩ := RegName.exists_at haligned (by omega)
  have hro : r.offset.toNat = 0x08 ∨ 0x30 ≤ r.offset.toNat := by
    rw [RegName.offset_of_at hr]
    exact hoff.imp_right And.left
  have hraise : (s.withPending rest).accessError a .accRo = (s.withPending rest).raise .accRo := by
    rw [State.accessError, State.answer, ho]
  calc step s = (s.withPending rest).perform a := step_of_pending hl hp
    _ = (s.withPending rest).writeReg r v := State.perform_of_write _ hw hr ho
    _ = .next ((s.withPending rest).raise .accRo) := State.writeReg_of_readOnly _ r v hro
    _ = .next (accessErrorRecorded (s.withPending rest) a 5#4) := by
      rw [← hraise, State.accessError_eq_recorded _ a .accRo rfl]
      rfl

/-! ### Addresses and bytes -/

/-- Settles O27: inside the window the offset is below 256, so its eight bits hold it. -/
theorem windowIsExactlyItsAddresses : Obligations.WindowIsExactlyItsAddresses := by
  intro c addr off
  have hoff := off.isLt
  unfold Config.windowOffset
  split
  · rename_i hin
    rw [Option.some_inj, ← BitVec.toNat_inj, BitVec.toNat_ofNat]
    omega
  · rename_i hout
    refine iff_of_false (by simp) fun haddr => hout ?_
    omega

/-- Settles O28: byte k is the slice of eight bits from bit 8k. -/
theorem bytesAreLittleEndian : Obligations.BytesAreLittleEndian := by
  intro v k j _ hj
  rw [byteOf, BitVec.getLsbD_extractLsb', decide_eq_true hj, Bool.true_and]

end Sys2Proof.Machine

/-! The decoder, the encoder and the words that are no command (rules R80 to R88). -/

namespace Sys2Proof.Machine

/-! ### The fields of a command word as numbers -/

theorem opField_eq_iff (v : Word) (op : BitVec 8) : opField v = op ↔ v.toNat % 256 = op.toNat := by
  rw [opField, ← BitVec.toNat_inj, BitVec.extractLsb'_toNat, Nat.shiftRight_zero]

theorem idxField_toNat (v : Word) : (idxField v).toNat = v.toNat / 2 ^ 8 % 16 := by
  rw [idxField, BitVec.extractLsb'_toNat, Nat.shiftRight_eq_div_pow]

theorem rField_toNat (v : Word) : (rField v).toNat = v.toNat / 2 ^ 12 % 2 := by
  rw [rField, BitVec.getLsbD, Nat.toNat_testBit]

theorem axBit_axField_toNat (v : Word) : (axBit (axField v)).toNat = v.toNat / 2 ^ 8 % 2 := by
  rw [← Nat.toNat_testBit, axField, BitVec.getLsbD]
  cases v.toNat.testBit 8 <;> rfl

theorem bitsFrom_eq_zero_iff (v : Word) (lo : Nat) : bitsFrom v lo = 0#64 ↔ v.toNat < 2 ^ lo := by
  rw [bitsFrom, ← BitVec.toNat_inj, BitVec.toNat_ushiftRight, Nat.shiftRight_eq_div_pow, BitVec.toNat_ofNat,
    Nat.zero_mod, Nat.div_eq_zero_iff_lt (Nat.two_pow_pos lo)]

/-! ### The check of the reserved bits -/

theorem unlessReserved_of_lt {v : Word} {lo : Nat} (i : Instr) (h : v.toNat < 2 ^ lo) :
    unlessReserved v lo i = .ok i := if_pos ((bitsFrom_eq_zero_iff v lo).2 h)

theorem unlessReserved_of_le {v : Word} {lo : Nat} (i : Instr) (h : 2 ^ lo ≤ v.toNat) :
    unlessReserved v lo i = .error .reservedBits :=
  if_neg fun hz => Nat.not_lt.2 h ((bitsFrom_eq_zero_iff v lo).1 hz)

/-! ### The decoder, format by format

In every format the command read has for its word the bits below the reserved ones. -/

/-- Format N (rule R82). -/
theorem decodeCommand_formatN {v : Word} (h : v.toNat % 256 ∈ [0x00, 0x02, 0x04, 0x05, 0xA5]) :
    ∃ i, decodeCommand v = unlessReserved v 8 i ∧ (encode i).toNat = v.toNat % 2 ^ 8 := by
  simp only [List.mem_cons, List.not_mem_nil, or_false] at h
  rcases h with h | h | h | h | h
  · exact ⟨.nop, by simp [decodeCommand, opField_eq_iff, h], h.symm⟩
  · exact ⟨.axs2, by simp [decodeCommand, opField_eq_iff, h], h.symm⟩
  · exact ⟨.lvs, by simp [decodeCommand, opField_eq_iff, h], h.symm⟩
  · exact ⟨.cyc, by simp [decodeCommand, opField_eq_iff, h], h.symm⟩
  · exact ⟨.rst, by simp [decodeCommand, opField_eq_iff, h], h.symm⟩

/-- Format X (rule R83). -/
theorem decodeCommand_formatX {v : Word} (h : v.toNat % 256 = 0x01) :
    decodeCommand v = unlessReserved v 9 (.axs (axField v)) := by
  simp [decodeCommand, opField_eq_iff, h]

theorem encode_axs_axField {v : Word} (h : v.toNat % 256 = 0x01) :
    (encode (.axs (axField v))).toNat = v.toNat % 2 ^ 9 := by
  simp only [encode, toNat_append_eq_add, axBit_axField_toNat, BitVec.toNat_ofNat]
  omega

/-- Format E (rule R84). -/
theorem decodeCommand_formatE {v : Word} (h : v.toNat % 256 = 0x03) :
    decodeCommand v = unlessReserved v 13 (.edg (idxField v) (rField v)) := by
  simp [decodeCommand, opField_eq_iff, h]

theorem encode_edg_fields {v : Word} (h : v.toNat % 256 = 0x03) :
    (encode (.edg (idxField v) (rField v))).toNat = v.toNat % 2 ^ 13 := by
  simp only [encode, toNat_append_eq_add, BitVec.toNat_ofBool, rField_toNat, idxField_toNat, BitVec.toNat_ofNat]
  omega

/-- Every OP outside the opcode map (rule R87). -/
theorem decodeCommand_of_unlisted {v : Word}
    (h : v.toNat % 256 ∉ [0x00, 0x01, 0x02, 0x03, 0x04, 0x05, 0xA5]) : decodeCommand v = .error .unknownOp := by
  simp only [List.mem_cons, List.not_mem_nil, or_false, not_or] at h
  simp [decodeCommand, opField_eq_iff, h]

theorem decodeCommand_cases (v : Word) :
    (∃ lo i, decodeCommand v = unlessReserved v lo i ∧ (encode i).toNat = v.toNat % 2 ^ lo) ∨
      decodeCommand v = .error .unknownOp := by
  by_cases hN : v.toNat % 256 ∈ [0x00, 0x02, 0x04, 0x05, 0xA5]
  · exact .inl ⟨8, decodeCommand_formatN hN⟩
  by_cases hX : v.toNat % 256 = 0x01
  · exact .inl ⟨9, _, decodeCommand_formatX hX, encode_axs_axField hX⟩
  by_cases hE : v.toNat % 256 = 0x03
  · exact .inl ⟨13, _, decodeCommand_formatE hE, encode_edg_fields hE⟩
  · refine .inr (decodeCommand_of_unlisted ?_)
    simp only [List.mem_cons, List.not_mem_nil, or_false, not_or] at hN ⊢
    omega

/-! ### Decoder and encoder -/

theorem decodeCommand_encode (i : Instr) : decodeCommand (encode i) = .ok i := by
  cases i with
  | nop => rfl
  | axs ax => cases ax <;> rfl
  | axs2 => rfl
  | edg idx r => revert idx r; decide
  | lvs => rfl
  | cyc => exact decodeCommand_encode_cyc
  | rst => rfl

theorem eq_encode_of_decodeCommand {v : Word} {i : Instr} (h : decodeCommand v = .ok i) : v = encode i := by
  rcases decodeCommand_cases v with ⟨lo, j, hd, hj⟩ | hd
  · rcases Nat.lt_or_ge v.toNat (2 ^ lo) with hlt | hge
    · cases h.symm.trans (hd.trans (unlessReserved_of_lt j hlt))
      exact BitVec.eq_of_toNat_eq (by rw [hj, Nat.mod_eq_of_lt hlt])
    · cases h.symm.trans (hd.trans (unlessReserved_of_le j hge))
  · cases h.symm.trans hd

/-- Settles O4: a word is determined by the command it decodes to, since its reserved bits are zero. -/
theorem decodeEncodeAgree : Obligations.DecodeEncodeAgree := fun _ i =>
  ⟨eq_encode_of_decodeCommand, fun h => h ▸ decodeCommand_encode i⟩

/-! ### The list of rule R88 -/

theorem encode_edg (idx : BitVec 4) (r : Bool) :
    encode (.edg idx r) = 0x03#64 ||| (BitVec.ofNat 64 idx.toNat <<< 8) ||| (BitVec.ofNat 64 r.toNat <<< 12) := by
  revert idx r
  decide

/-- Settles O3: by O4 the legal words are the encodings of the well-formed commands, which the list gives one by one. -/
theorem legalWordsExactly : Obligations.LegalWordsExactly := by
  intro nedge v i _ _
  rw [decodeEncodeAgree v i]
  cases i with
  | edg idx r =>
    simp only [encode_edg, Instr.wellFormed, Bool.and_eq_true, decide_eq_true_eq, reduceCtorEq, false_and, false_or,
      or_false]
    constructor
    · rintro ⟨hv, hlo, hhi⟩
      exact ⟨idx, r, rfl, hlo, hhi, hv⟩
    · rintro ⟨_, _, ⟨rfl, rfl⟩, hlo, hhi, hv⟩
      exact ⟨hv, hlo, hhi⟩
  | axs ax => cases ax <;> simp [encode, axBit, Instr.wellFormed]
  | _ => simp [encode, Instr.wellFormed]

/-- Settles O2: each word is the encoding of the command it is listed for. -/
theorem listedWordsDecode : Obligations.ListedWordsDecode :=
  ⟨decodeCommand_encode .nop, decodeCommand_encode (.axs .forward), decodeCommand_encode (.axs .lateral),
    decodeCommand_encode .axs2, decodeCommand_encode (.edg 2#4 false), decodeCommand_encode (.edg 2#4 true),
    decodeCommand_encode (.edg 3#4 false), decodeCommand_encode (.edg 3#4 true), decodeCommand_encode .lvs,
    decodeCommand_encode .cyc, decodeCommand_encode .rst⟩

/-! ### A word that is no command -/

/-- An illegal command in the terms of the spec: an error of the first kind, with its code (rule R181). -/
theorem State.raise_eq_recorded (s : State) (c : ErrorCode) (hc : c.isIllegalCommand = true) :
    s.raise c = illegalCommandRecorded s c.code := by
  simp [State.raise, Status.record, illegalCommandRecorded, hc]

theorem step_of_write_cmd {s : State} {ag : Agent} {v : Word} {rest : List Event} (hl : Config.legal s.cfg = true)
    (hp : s.pending = .access ⟨ag, 0x00#8, 8, .write v⟩ :: rest) : step s = (s.withPending rest).command v :=
  (step_of_pending hl hp).trans (State.happen_write _ ag .cmd v)

theorem State.command_of_error (s : State) {v : Word} {d : DecodeError} (h : decodeCommand v = .error d) :
    s.command v = .next (illegalCommandRecorded s (errorOf d).code) := by
  rw [State.command, h, ← State.raise_eq_recorded s _ (by cases d <;> rfl)]

theorem exec_edg_of_illegal_index (s : State) {idx : BitVec 4} (r : Bool)
    (h : idx.toNat < 2 ∨ s.cfg.nedge ≤ idx.toNat) :
    exec (.edg idx r) s = .next (illegalCommandRecorded s 3#4) :=
  (if_pos h).trans (congrArg _ (s.raise_eq_recorded .illIdx rfl))

/-- Settles O5: the OP is judged first, then the reserved bits, and the index of EDG last (rule R185). -/
theorem illegalCommandOnlyRecorded : Obligations.IllegalCommandOnlyRecorded := by
  intro s ag v rest hl hp
  rw [step_of_write_cmd hl hp]
  have hreserved (h : decodeCommand v = .error .reservedBits) :
      (s.withPending rest).command v = .next (illegalCommandRecorded (s.withPending rest) 2#4) :=
    State.command_of_error _ h
  refine ⟨fun hop => ?_, fun hop hv => ?_, fun hop hv => ?_, fun hop hv => ?_, fun hop hv hidx => ?_⟩
  · exact State.command_of_error _ (decodeCommand_of_unlisted hop)
  · obtain ⟨i, hd, _⟩ := decodeCommand_formatN hop
    exact hreserved (hd.trans (unlessReserved_of_le i hv))
  · exact hreserved ((decodeCommand_formatX hop).trans (unlessReserved_of_le _ hv))
  · exact hreserved ((decodeCommand_formatE hop).trans (unlessReserved_of_le _ hv))
  · rw [State.command, decodeCommand_formatE hop, unlessReserved_of_lt _ hv]
    rw [← idxField_toNat] at hidx
    exact exec_edg_of_illegal_index _ _ hidx

end Sys2Proof.Machine

/-! The commands AXS and AXS2 as a whole (rules R103, R104, R112), and inchesPerTick (rule R102). -/

namespace Sys2Proof.Machine

theorem exec_axs (i : AxisInst) (s : State) : exec (.axs i) s = .next (s.axisStep i) := rfl

theorem exec_axs2 (s : State) : exec .axs2 s = .next ((s.axisStep .forward).axisStep .lateral) := rfl

/-- A sample is available when both of its read flags are set (rule R104). -/
theorem State.sampleValid_of_flags {s : State} (ha : s.argIn.getLsbD 0 = true) (hb : s.argIn.getLsbD 1 = true) :
    s.sampleValid = true :=
  Bool.and_eq_true_iff.2 ⟨ha, hb⟩

/-- A sample with a failed read is not available (rule R104). -/
theorem State.sampleValid_of_failed_read {s : State} (h : s.argIn.getLsbD 0 = false ∨ s.argIn.getLsbD 1 = false) :
    s.sampleValid = false :=
  Bool.and_eq_false_iff.2 h

/-- Settles O12: AxisStep of AxisTransform F on an available sample, with its formula written out. -/
theorem axsForwardSample : Obligations.AxsForwardSample := fun s ha hb =>
  congrArg _ (s.axisStep_forward_of_valid (State.sampleValid_of_flags ha hb))

/-- Settles O13: AxisStep of AxisTransform L on an available sample, with its formula written out. -/
theorem axsLateralSample : Obligations.AxsLateralSample := fun s ha hb =>
  congrArg _ (s.axisStep_lateral_of_valid (State.sampleValid_of_flags ha hb))

/-- Settles O14: AxisStep of each AxisTransform on a failed sample, alone and one after the other. -/
theorem failedReadReportsUnavailable : Obligations.FailedReadReportsUnavailable := fun s h => by
  have hv := State.sampleValid_of_failed_read h
  exact ⟨congrArg _ (s.axisStep_forward_of_failed hv), congrArg _ (s.axisStep_lateral_of_failed hv),
    congrArg _ (s.axisStep_both_of_failed hv)⟩

/-- Settles O15: AxisStep of both instances on one available sample. -/
theorem sharedSampleOfBothAxes : Obligations.SharedSampleOfBothAxes := fun s ha hb =>
  congrArg _ (s.axisStep_both_of_valid (State.sampleValid_of_flags ha hb))

/-- The default inchesPerTick is exactly PI64 / 4096: the same significand, 12 binades lower. -/
theorem value_default_inchesPerTick :
    F64.value 0x3F4921FB54442D18#64 = F64.value 0x400921FB54442D18#64 / 4096 := by
  have hunits : F64.units 0x400921FB54442D18#64 = F64.units 0x3F4921FB54442D18#64 * 4096 := by decide +kernel
  unfold F64.value
  rw [hunits, Int.cast_mul, Int.cast_ofNat, mul_div_right_comm, mul_div_cancel_right₀ _ (by decide)]

/-- Settles O46: the formula is the definition, and the default value is computed. -/
theorem inchesPerTickByFormula : Obligations.InchesPerTickByFormula := by
  refine ⟨fun c i => ?_, by decide +kernel, by decide +kernel, value_default_inchesPerTick⟩
  cases i <;> rfl

/-- Settles O57, by computing the example. -/
theorem transformIsNotBitExactlyInvertible : Obligations.TransformIsNotBitExactlyInvertible :=
  ⟨_, exec_axs2 _, by decide +kernel, by decide +kernel⟩

end Sys2Proof.Machine

/-! The operations of rule R12 on finite values as one rounding each, and how far a rounding is from the exact value. -/

namespace Sys2Proof

/-! ### The rounding as a function of the quotient -/

theorem F64.unitsOf_eq_zero_iff (p : Nat) : F64.unitsOf p = 0 ↔ p = 0 := by
  rw [← F64.unitsOf_strictMono.injective.eq_iff (a := p), F64.unitsOf_of_lt 0 (by decide)]

/-- Only the quotient matters: a common factor cancels. -/
theorem F64.round_mul_right (num den c : Nat) (hc : 0 < c) : F64.round (num * c) (den * c) = F64.round num den := by
  have hlast : F64.lastPlace (num * c) (den * c) = F64.lastPlace num den := by
    unfold F64.lastPlace
    rw [Nat.mul_div_mul_right _ _ hc]
  have heven (d : Nat) : F64.nearestEven (num * c) (d * c) = F64.nearestEven num d := by
    unfold F64.nearestEven
    rw [Nat.mul_div_mul_right _ _ hc, Nat.mul_mod_mul_right, ← Nat.mul_assoc]
    simp [Nat.mul_lt_mul_right hc, Nat.ne_of_gt hc]
  have hun : F64.unbounded (num * c) (den * c) = F64.unbounded num den := by
    unfold F64.unbounded
    rw [hlast, Nat.mul_right_comm, heven]
  unfold F64.round
  rw [hun]

/-- Of two quotients the larger is not rounded below the smaller: each is nearest to its own rounding. -/
theorem F64.unbounded_mono {num num' den : Nat} (hd : 0 < den) (h : num ≤ num') :
    F64.unbounded num den ≤ F64.unbounded num' den := by
  rcases Nat.eq_or_lt_of_le h with rfl | hlt
  · exact Nat.le_refl _
  · by_contra hgt
    have hunits := Nat.mul_lt_mul_of_pos_right (F64.unitsOf_strictMono (Nat.lt_of_not_le hgt)) hd
    have hnear := (F64.unbounded_nearest num den (F64.unbounded num' den) hd).1
    have hnear' := (F64.unbounded_nearest num' den (F64.unbounded num den) hd).1
    simp only [F64.roundingError_eq] at hnear hnear'
    omega

theorem F64.round_mono {num num' den : Nat} (hd : 0 < den) (h : num ≤ num') :
    F64.round num den ≤ F64.round num' den := by
  have := F64.unbounded_mono hd h
  unfold F64.round
  split <;> split <;> omega

theorem F64.round_zero (den : Nat) : F64.round 0 den = 0 := by
  simp [F64.round, F64.unbounded, F64.lastPlace, F64.nearestEven, F64.infBits]

/-- More than half a unit does not round to zero. -/
theorem F64.round_pos {num den : Nat} (hd : 0 < den) (h : den < 2 * num) : 0 < F64.round num den := by
  have hpos : 0 < F64.unbounded num den := by
    by_contra h0
    have hnear := (F64.unbounded_nearest num den 1 hd).1
    rw [Nat.eq_zero_of_not_pos h0, F64.unitsOf_of_lt 0 (by decide), F64.unitsOf_of_lt 1 (by decide)] at hnear
    simp only [F64.roundingError_eq] at hnear
    omega
  have hinf : 0 < F64.infBits := by decide
  unfold F64.round
  split <;> omega

/-- The rounding is off by at most half a last place: by 2^-53 of the value, or by half a unit below the normal values. -/
theorem F64.unbounded_error (num den : Nat) (hd : 0 < den) :
    2 ^ 53 * F64.roundingError num den (F64.unitsOf (F64.unbounded num den)) ≤ num ∨
      (F64.lastPlace num den = 0 ∧ 2 * F64.roundingError num den (F64.unitsOf (F64.unbounded num den)) ≤ den) := by
  have hpos : 0 < den * 2 ^ F64.lastPlace num den := Nat.mul_pos hd (Nat.two_pow_pos _)
  have hhalf := (F64.nearestEven_error num _ hpos).1
  rw [F64.unitsOf_unbounded num den hd, F64.roundingError_mul]
  rcases Nat.eq_zero_or_pos (F64.lastPlace num den) with h0 | hk
  · refine .inr ⟨h0, ?_⟩
    rw [h0, Nat.pow_zero, Nat.mul_one] at hhalf ⊢
    exact hhalf
  · have hlo := (F64.lastPlace_bounds num den hd).2 hk
    exact .inl (by omega)

/-! ### A value that is one rounding of an exact one -/

/-- n with a sign. -/
def F64.signed (neg : Bool) (n : Nat) : Int := if neg then -(n : Int) else n

theorem F64.units_eq_signed (x : F64) : F64.units x = F64.signed (F64.sign x) (F64.mag x) := rfl

@[simp] theorem F64.natAbs_signed (neg : Bool) (n : Nat) : (F64.signed neg n).natAbs = n := by
  cases neg <;> simp [F64.signed]

theorem F64.signed_natAbs_of_neg (z : Int) : F64.signed (decide (z < 0)) z.natAbs = z := by
  unfold F64.signed
  by_cases h : z < 0
  · rw [if_pos (decide_eq_true h), Int.ofNat_natAbs_of_nonpos h.le, Int.neg_neg]
  · rw [decide_eq_false h, if_neg Bool.false_ne_true, Int.natAbs_of_nonneg (Int.not_lt.1 h)]

theorem F64.signed_mul (neg neg' : Bool) (n n' : Nat) :
    F64.signed (neg != neg') (n * n') = F64.signed neg n * F64.signed neg' n' := by
  cases neg <;> cases neg' <;> simp [F64.signed]

theorem F64.natAbs_units (x : F64) : (F64.units x).natAbs = F64.mag x := F64.natAbs_signed _ _

/-- x is z/den units, rounded once; an exact zero may have either sign. -/
def F64.IsRounding (x : F64) (z : Int) (den : Nat) : Prop :=
  ∃ neg, x = F64.pack neg (F64.round z.natAbs den) ∧ F64.signed neg z.natAbs = z

section
variable {x : F64} {z : Int} {den : Nat}

theorem F64.round_lt_two_pow (num den : Nat) : F64.round num den < 2 ^ 63 :=
  (F64.round_le_infBits num den).trans_lt F64.infBits_lt

theorem F64.IsRounding.bits (h : F64.IsRounding x z den) : x.toNat % 2 ^ 63 = F64.round z.natAbs den := by
  obtain ⟨neg, rfl, _⟩ := h
  exact F64.pack_toNat_mod neg _ (F64.round_lt_two_pow _ _)

theorem F64.IsRounding.bits_le (h : F64.IsRounding x z den) (hd : 0 < den) {n : Nat} (hz : z.natAbs ≤ n) :
    x.toNat % 2 ^ 63 ≤ F64.round n den :=
  h.bits.trans_le (F64.round_mono hd hz)

theorem F64.IsRounding.isFinite (h : F64.IsRounding x z den) (hx : x.toNat % 2 ^ 63 < F64.infBits) :
    F64.isFinite x = true := by
  rw [h.bits] at hx
  obtain ⟨neg, rfl, _⟩ := h
  rw [F64.isFinite_pack neg _ hx.le, decide_eq_true hx]

/-- The error of a finite rounding, in units of 1/den. -/
theorem F64.IsRounding.error_eq (h : F64.IsRounding x z den) (hx : F64.isFinite x = true) :
    |F64.units x * den - z| = F64.roundingError z.natAbs den (F64.unitsOf (F64.unbounded z.natAbs den)) := by
  have hlt := h.bits ▸ F64.bits_lt hx
  obtain ⟨neg, rfl, hz⟩ := h
  rw [F64.units_pack neg _ (F64.round_lt_two_pow _ _), F64.round_of_lt hlt, F64.roundingError, Int.natCast_natAbs]
  cases neg with
  | false =>
    have habs : (z.natAbs : Int) = z := hz
    rw [if_neg Bool.false_ne_true, habs]
  | true =>
    have habs : (z.natAbs : Int) = -z := neg_eq_iff_eq_neg.1 hz
    rw [if_pos rfl, habs, ← abs_neg]
    congr 1
    ring

/-- y is the exact value, x what rounding it to 53 bits may give. -/
def F64.Near (x y : Int) : Prop := 2 ^ 53 * |x - y| ≤ |y|

theorem F64.Near.neg {x y : Int} (h : F64.Near x y) : F64.Near (-x) (-y) := by
  unfold F64.Near at *
  rwa [abs_neg, neg_sub_neg, abs_sub_comm]

theorem F64.Near.abs_le {x y : Int} (h : F64.Near x y) : 2 ^ 53 * |x| ≤ (2 ^ 53 + 1) * |y| := by
  have := abs_sub_abs_le_abs_sub x y
  unfold F64.Near at h
  linarith

/-- A whole number of units is rounded with a relative error only. -/
theorem F64.IsRounding.near (h : F64.IsRounding x z 1) (hx : F64.isFinite x = true) : F64.Near (F64.units x) z := by
  have herr := h.error_eq hx
  rw [Nat.cast_one, mul_one] at herr
  rw [F64.Near, herr, Int.abs_eq_natAbs z]
  rcases F64.unbounded_error z.natAbs 1 Nat.one_pos with hrel | ⟨_, habs⟩
  · exact_mod_cast hrel
  · omega

/-- A quotient is rounded with a relative error, or one of half a unit where it is subnormal. -/
theorem F64.IsRounding.error_le (h : F64.IsRounding x z den) (hd : 0 < den) (hx : F64.isFinite x = true) :
    2 ^ 53 * |F64.units x * den - z| ≤ |z| + 2 ^ 52 * den := by
  rw [h.error_eq hx, Int.abs_eq_natAbs z]
  rcases F64.unbounded_error z.natAbs den hd with hrel | ⟨_, habs⟩ <;> omega

end

theorem F64.mag_le_of_bits_le {x : F64} {p : Nat} (h : x.toNat % 2 ^ 63 ≤ p) : F64.mag x ≤ F64.unitsOf p :=
  F64.unitsOf_strictMono.monotone h

/-! ### The operations as roundings -/

theorem F64.add_isRounding {x y : F64} (hx : F64.isFinite x = true) (hy : F64.isFinite y = true) :
    F64.IsRounding (F64.add x y) (F64.units x + F64.units y) 1 := by
  rw [F64.add_of_finite hx hy]
  split
  · rename_i h0
    exact ⟨_, by rw [h0, Int.natAbs_zero, F64.round_zero]; rfl, by rw [h0]; simp [F64.signed]⟩
  · exact ⟨_, rfl, F64.signed_natAbs_of_neg _⟩

theorem F64.sub_isRounding {x y : F64} (hx : F64.isFinite x = true) (hy : F64.isFinite y = true) :
    F64.IsRounding (F64.sub x y) (F64.units x - F64.units y) 1 := by
  rw [F64.sub_of_finite hx hy]
  split
  · rename_i h0
    exact ⟨_, by rw [h0, Int.natAbs_zero, F64.round_zero]; rfl, by rw [h0]; simp [F64.signed]⟩
  · exact ⟨_, rfl, F64.signed_natAbs_of_neg _⟩

theorem F64.sign_ofInt (n : Int) : F64.sign (F64.ofInt n) = decide (n < 0) := by
  rw [F64.ofInt_eq, F64.sign_pack _ _ (F64.round_lt_two_pow _ _)]

theorem F64.mag_ofInt (n : Int) (hn : n.natAbs < 2 ^ 53) : F64.mag (F64.ofInt n) = n.natAbs * 2 ^ 1074 := by
  have hscale (k : Nat) : (n * 2 ^ k).natAbs = n.natAbs * 2 ^ k := by simp [Int.natAbs_mul, Int.natAbs_pow]
  rw [← F64.natAbs_units, (F64.ofInt_exact n hn).2, hscale]

/-- The product with an exactly converted integer. -/
theorem F64.mul_ofInt_eq (n : Int) (hn : n.natAbs < 2 ^ 53) {y : F64} (hy : F64.isFinite y = true) :
    F64.mul (F64.ofInt n) y = F64.pack (decide (n < 0) != F64.sign y) (F64.round (n.natAbs * F64.mag y) 1) := by
  rw [F64.mul_of_finite (F64.ofInt_exact n hn).1 hy, F64.sign_ofInt, F64.mag_ofInt n hn, Nat.mul_right_comm,
    ← F64.round_mul_right _ 1 (2 ^ 1074) (pow_pos Nat.two_pos 1074), Nat.one_mul]

theorem F64.mul_ofInt_isRounding (n : Int) (hn : n.natAbs < 2 ^ 53) {y : F64} (hy : F64.isFinite y = true) :
    F64.IsRounding (F64.mul (F64.ofInt n) y) (n * F64.units y) 1 := by
  have habs : (n * F64.units y).natAbs = n.natAbs * F64.mag y := by rw [Int.natAbs_mul, F64.natAbs_units]
  refine ⟨_, by rw [F64.mul_ofInt_eq n hn hy, habs], ?_⟩
  rw [habs, F64.signed_mul, F64.signed_natAbs_of_neg, F64.units_eq_signed]

/-- The 53-bit significand of SQRT2_64, which is this number over 2^52. -/
def F64.sqrt2Significand : Nat := 0x16A09E667F3BCD

theorem F64.mag_sqrt2 : F64.mag sqrt2 = F64.sqrt2Significand * 2 ^ 1022 := by decide +kernel

theorem F64.div_sqrt2_eq {x : F64} (hx : F64.isFinite x = true) :
    F64.div x sqrt2 = F64.pack (F64.sign x) (F64.round (2 ^ 52 * F64.mag x) F64.sqrt2Significand) := by
  have hsign : F64.sign sqrt2 = false := by decide
  have hnum : 2 ^ 1074 * F64.mag x = 2 ^ 52 * F64.mag x * 2 ^ 1022 := by
    rw [Nat.mul_right_comm, ← Nat.pow_add]
  rw [F64.div_of_finite hx (by decide) (by decide +kernel), hsign, Bool.bne_false, F64.mag_sqrt2, hnum,
    F64.round_mul_right _ _ _ (Nat.two_pow_pos _)]

theorem F64.natAbs_two_pow_mul_units (x : F64) : (2 ^ 52 * F64.units x).natAbs = 2 ^ 52 * F64.mag x := by
  rw [Int.natAbs_mul, F64.natAbs_units]
  rfl

theorem F64.div_sqrt2_isRounding {x : F64} (hx : F64.isFinite x = true) :
    F64.IsRounding (F64.div x sqrt2) (2 ^ 52 * F64.units x) F64.sqrt2Significand := by
  refine ⟨_, by rw [F64.div_sqrt2_eq hx, F64.natAbs_two_pow_mul_units], ?_⟩
  rw [F64.natAbs_two_pow_mul_units, F64.units_eq_signed]
  cases F64.sign x <;> simp [F64.signed]

/-! ### Values -/

/-- SQRT2_64 as a value. -/
theorem F64.value_sqrt2 : F64.value sqrt2 = (F64.sqrt2Significand : Int) / 2 ^ 52 := by
  have hunits : F64.units sqrt2 = F64.sqrt2Significand * 2 ^ 1022 := by decide +kernel
  have hscale : (2 : Rat) ^ 1074 = 2 ^ 52 * 2 ^ 1022 := by rw [← pow_add]
  rw [F64.value, hunits, hscale, Int.cast_mul, Int.cast_pow, Int.cast_ofNat,
    mul_div_mul_right _ _ (pow_ne_zero _ two_ne_zero)]

@[simp] theorem F64.value_neg (x : F64) : F64.value (F64.neg x) = -F64.value x := by
  rw [F64.value, F64.units_neg, Int.cast_neg, neg_div, ← F64.value]

end Sys2Proof

/-! The value -0.0 under the operations of the transform (rule R107). -/

namespace Sys2Proof

theorem F64.eq_negZero_iff (x : F64) : x = 0x8000000000000000#64 ↔ F64.sign x = true ∧ F64.mag x = 0 := by
  constructor
  · rintro rfl
    decide
  · rintro ⟨hsign, hmag⟩
    have hlow : x.toNat % 2 ^ 63 = 0 := (F64.unitsOf_eq_zero_iff _).1 hmag
    have hhigh : x.toNat / 2 ^ 63 % 2 = 1 := by
      simpa only [F64.sign, BitVec.getLsbD, Nat.testBit_eq_decide_div_mod_eq, decide_eq_true_eq] using hsign
    have hlt := x.isLt
    refine BitVec.eq_of_toNat_eq ?_
    rw [show (0x8000000000000000#64).toNat = 2 ^ 63 from rfl]
    omega

/-- A packed -0.0 is a negative zero. -/
theorem F64.pack_eq_negZero {neg : Bool} {p : Nat} (hp : p < 2 ^ 63) (h : F64.pack neg p = 0x8000000000000000#64) :
    neg = true ∧ p = 0 := by
  obtain ⟨hsign, hmag⟩ := (F64.eq_negZero_iff _).1 h
  rw [F64.sign_pack neg p hp] at hsign
  rw [F64.mag_pack neg p hp] at hmag
  exact ⟨hsign, (F64.unitsOf_eq_zero_iff _).1 hmag⟩

/-- A NaN has every exponent bit set, -0.0 none. -/
theorem F64.nanResult_ne_negZero (op : FloatOp) (x y : F64) : F64.nanResult op x y ≠ 0x8000000000000000#64 := by
  intro h
  have hbit : (F64.nanResult op x y).getLsbD 62 = true := by
    simp only [F64.nanResult, BitVec.getLsbD_append]
    rfl
  rw [h] at hbit
  exact absurd hbit (by decide)

theorem F64.inf_ne_negZero {x : F64} (hx : F64.isInf x = true) : x ≠ 0x8000000000000000#64 := by
  rintro rfl
  exact absurd hx (by decide)

/-- A sum is -0.0 only where both addends are. -/
theorem F64.sum_ne_negZero {nan x y : F64} (hnan : nan ≠ 0x8000000000000000#64) (hx : x ≠ 0x8000000000000000#64) :
    F64.sum nan x y ≠ 0x8000000000000000#64 := by
  unfold F64.sum
  split
  · split
    · exact hnan
    · exact hx
  · split
    next hy => exact F64.inf_ne_negZero hy
    next =>
      split
      next h0 =>
        intro hzero
        obtain ⟨hsign, _⟩ := F64.pack_eq_negZero (by decide) hzero
        obtain ⟨hsx, hsy⟩ := Bool.and_eq_true_iff.1 hsign
        refine hx ((F64.eq_negZero_iff x).2 ⟨hsx, ?_⟩)
        rw [F64.units, F64.units, if_pos hsx, if_pos hsy] at h0
        omega
      next h0 =>
        intro hzero
        have hpos : 0 < F64.round (F64.units x + F64.units y).natAbs 1 := F64.round_pos Nat.one_pos (by omega)
        exact absurd (F64.pack_eq_negZero (F64.round_lt_two_pow _ _) hzero).2 hpos.ne'

theorem F64.add_ne_negZero {x : F64} (hx : x ≠ 0x8000000000000000#64) (y : F64) :
    F64.add x y ≠ 0x8000000000000000#64 := by
  unfold F64.add
  split
  · exact F64.nanResult_ne_negZero _ _ _
  · exact F64.sum_ne_negZero (F64.nanResult_ne_negZero _ _ _) hx

theorem F64.sub_ne_negZero {x : F64} (hx : x ≠ 0x8000000000000000#64) (y : F64) :
    F64.sub x y ≠ 0x8000000000000000#64 := by
  unfold F64.sub
  split
  · exact F64.nanResult_ne_negZero _ _ _
  · exact F64.sum_ne_negZero (F64.nanResult_ne_negZero _ _ _) hx

theorem F64.isFinite_of_not_special {x : F64} (hnan : ¬F64.isNaN x = true) (hinf : ¬F64.isInf x = true) :
    F64.isFinite x = true := by
  by_contra hfin
  simp_all [F64.isNaN, F64.isInf, F64.isFinite]

/-- The least magnitude over the square root of 2 still rounds to the least magnitude, not to zero. -/
theorem F64.div_sqrt2_ne_negZero {x : F64} (hx : x ≠ 0x8000000000000000#64) :
    F64.div x sqrt2 ≠ 0x8000000000000000#64 := by
  by_cases hnan : F64.isNaN x = true
  · unfold F64.div
    rw [hnan, Bool.true_or, if_pos rfl]
    exact F64.nanResult_ne_negZero _ _ _
  · by_cases hinf : F64.isInf x = true
    · have hs : F64.isNaN sqrt2 = false ∧ F64.isInf sqrt2 = false := by decide
      unfold F64.div
      rw [Bool.eq_false_iff.2 hnan, hs.1, hs.2, hinf, Bool.or_false, if_neg Bool.false_ne_true, if_pos rfl,
        if_neg Bool.false_ne_true]
      cases F64.sign x != F64.sign sqrt2 <;> decide
    · rw [F64.div_sqrt2_eq (F64.isFinite_of_not_special hnan hinf)]
      intro hzero
      obtain ⟨hsign, hround⟩ := F64.pack_eq_negZero (F64.round_lt_two_pow _ _) hzero
      refine hx ((F64.eq_negZero_iff x).2 ⟨hsign, ?_⟩)
      by_contra hmag
      have hpos : 0 < F64.round (2 ^ 52 * F64.mag x) F64.sqrt2Significand :=
        F64.round_pos (by decide) (by unfold F64.sqrt2Significand; omega)
      exact absurd hround hpos.ne'

end Sys2Proof

/-! The distance of an available sample (rules R103, R105 to R108). -/

namespace Sys2Proof.Machine

/-- An available sample's result is the distance of its tick deltas. -/
theorem State.res_axisStep_of_valid (s : State) (i : AxisInst) (h : s.sampleValid = true) :
    (s.axisStep i).res i = axisDistance s.cfg i (s.deltaA i) (s.deltaB i) := by
  cases i with
  | forward => rw [s.axisStep_forward_of_valid h]; rfl
  | lateral => rw [s.axisStep_lateral_of_valid h]; rfl

/-- What an AxisTransform projects: the sum of the scaled deltas or their difference (rule R105). -/
def axisSum : AxisInst → F64 → F64 → F64
  | .forward => F64.add
  | .lateral => F64.sub

theorem axisDistance_eq (c : Config) (i : AxisInst) (a b : Int) :
    axisDistance c i a b = F64.div (axisSum i (scaledDelta c i a) (scaledDelta c i b)) sqrt2 := by
  cases i <;> rfl

/-- The exact sum or difference that `axisSum` rounds. -/
def exactSum (i : AxisInst) (a b : Int) : Int :=
  match i with
  | .forward => a + b
  | .lateral => a - b

theorem natAbs_exactSum_le (i : AxisInst) (a b : Int) : (exactSum i a b).natAbs ≤ a.natAbs + b.natAbs := by
  cases i
  · exact Int.natAbs_add_le a b
  · exact Int.natAbs_sub_le a b

theorem axisSum_isRounding (i : AxisInst) {x y : F64} (hx : F64.isFinite x = true) (hy : F64.isFinite y = true) :
    F64.IsRounding (axisSum i x y) (exactSum i (F64.units x) (F64.units y)) 1 := by
  cases i
  · exact F64.add_isRounding hx hy
  · exact F64.sub_isRounding hx hy

theorem axisSum_ne_negZero (i : AxisInst) {x : F64} (hx : x ≠ 0x8000000000000000#64) (y : F64) :
    axisSum i x y ≠ 0x8000000000000000#64 := by
  cases i
  · exact F64.add_ne_negZero hx y
  · exact F64.sub_ne_negZero hx y

/-! ### Unchanged ticks (rule R106) -/

theorem scaledDelta_zero {c : Config} {i : AxisInst} (hfin : F64.isFinite (inchesPerTick c i) = true)
    (hsign : F64.sign (inchesPerTick c i) = false) : scaledDelta c i 0 = 0x0000000000000000#64 := by
  rw [scaledDelta, F64.mul_ofInt_eq 0 (by decide) hfin, hsign, Int.natAbs_zero, Nat.zero_mul, F64.round_zero]
  rfl

theorem axisDistance_zero {c : Config} {i : AxisInst} (hfin : F64.isFinite (inchesPerTick c i) = true)
    (hsign : F64.sign (inchesPerTick c i) = false) : axisDistance c i 0 0 = 0x0000000000000000#64 := by
  rw [axisDistance, scaledDelta_zero hfin hsign]
  cases i <;> decide +kernel

/-- Settles O47: both deltas are 0, and so is every operation on +0.0. -/
theorem unchangedTicksGiveZero : Obligations.UnchangedTicksGiveZero := by
  intro s i ha hb hA hB hfin hsign
  refine ⟨_, exec_axs i s, ?_⟩
  rw [s.res_axisStep_of_valid i (State.sampleValid_of_flags ha hb), State.deltaA, State.deltaB, hA, hB, Int.sub_self,
    Int.sub_self, axisDistance_zero hfin hsign]

/-! ### No negative zero (rule R107) -/

theorem scaledDelta_ne_negZero {c : Config} {i : AxisInst} {delta : Int} (hd : delta.natAbs < 2 ^ 53)
    (hfin : F64.isFinite (inchesPerTick c i) = true) (hsign : F64.sign (inchesPerTick c i) = false)
    (hpos : 0 < F64.mag (inchesPerTick c i)) : scaledDelta c i delta ≠ 0x8000000000000000#64 := by
  rw [scaledDelta, F64.mul_ofInt_eq delta hd hfin, hsign, Bool.bne_false]
  intro hzero
  obtain ⟨hneg, hround⟩ := F64.pack_eq_negZero (F64.round_lt_two_pow _ _) hzero
  have hmul : 0 < delta.natAbs * F64.mag (inchesPerTick c i) :=
    Nat.mul_pos (Int.natAbs_pos.2 (of_decide_eq_true hneg).ne) hpos
  exact absurd hround (F64.round_pos Nat.one_pos (by omega)).ne'

/-- Settles O48: the first scaled delta is not -0.0, so neither is the sum or the difference, nor the quotient. -/
theorem noResultIsNegativeZero : Obligations.NoResultIsNegativeZero := by
  intro s i ha hb hfin hsign hpos
  have hdelta : (s.deltaA i).natAbs < 2 ^ 53 := (natAbs_tick_sub_le _ _).trans_lt (by decide)
  refine ⟨_, exec_axs i s, ?_⟩
  rw [s.res_axisStep_of_valid i (State.sampleValid_of_flags ha hb), axisDistance_eq]
  exact F64.div_sqrt2_ne_negZero (axisSum_ne_negZero i (scaledDelta_ne_negZero hdelta hfin hsign hpos) _)

end Sys2Proof.Machine

/-! The distance at the default inchesPerTick (rules R108, R109): each of the five operations stays finite, and their
errors add up to less than 2^-50 of the motion. -/

namespace Sys2Proof.Machine

/-- The default inchesPerTick (rule R102). -/
def defaultIpt : F64 := 0x3F4921FB54442D18#64

/-- Exponent and fraction bits of the largest delta scaled by the default inchesPerTick. -/
def largestScaled : Nat := 0x414921FB542B0B1D

/-- Exponent and fraction bits of twice `largestScaled`, the largest sum or difference. -/
def largestSum : Nat := 0x415921FB542B0B1D

/-- A finite value of at most these exponent and fraction bits. -/
structure BoundedBy (x : F64) (p : Nat) : Prop where
  finite : F64.isFinite x = true
  bits_le : x.toNat % 2 ^ 63 ≤ p

theorem boundedBy_of_isRounding {x : F64} {z : Int} {den n p : Nat} (h : F64.IsRounding x z den) (hd : 0 < den)
    (hz : z.natAbs ≤ n) (hround : F64.round n den ≤ p) (hp : p < F64.infBits) : BoundedBy x p :=
  have hbits : x.toNat % 2 ^ 63 ≤ p := (h.bits_le hd hz).trans hround
  ⟨h.isFinite (hbits.trans_lt hp), hbits⟩

section
variable {c : Config} {i : AxisInst}

theorem scaledDelta_isRounding {d : Int} (hipt : inchesPerTick c i = defaultIpt) (hd : d.natAbs ≤ 2 ^ 32 - 1) :
    F64.IsRounding (scaledDelta c i d) (d * F64.units defaultIpt) 1 := by
  rw [scaledDelta, hipt]
  exact F64.mul_ofInt_isRounding d (by omega) (by decide)

theorem scaledDelta_boundedBy {d : Int} (hipt : inchesPerTick c i = defaultIpt) (hd : d.natAbs ≤ 2 ^ 32 - 1) :
    BoundedBy (scaledDelta c i d) largestScaled := by
  have hz : (d * F64.units defaultIpt).natAbs ≤ (2 ^ 32 - 1) * F64.mag defaultIpt := by
    rw [Int.natAbs_mul, F64.natAbs_units]
    exact Nat.mul_le_mul_right _ hd
  exact boundedBy_of_isRounding (scaledDelta_isRounding hipt hd) Nat.one_pos hz (by decide +kernel) (by decide)

theorem axisSum_boundedBy (i : AxisInst) {x y : F64} (hx : BoundedBy x largestScaled)
    (hy : BoundedBy y largestScaled) : BoundedBy (axisSum i x y) largestSum := by
  have hmx := F64.mag_le_of_bits_le hx.bits_le
  have hmy := F64.mag_le_of_bits_le hy.bits_le
  have hz : (exactSum i (F64.units x) (F64.units y)).natAbs ≤ 2 * F64.unitsOf largestScaled := by
    have := natAbs_exactSum_le i (F64.units x) (F64.units y)
    rw [F64.natAbs_units, F64.natAbs_units] at this
    omega
  exact boundedBy_of_isRounding (axisSum_isRounding i hx.finite hy.finite) Nat.one_pos hz (by decide +kernel)
    (by decide)

theorem div_sqrt2_boundedBy {x : F64} (hx : BoundedBy x largestSum) :
    BoundedBy (F64.div x sqrt2) 0x4151C5831ACB9D61 := by
  have hz : (2 ^ 52 * F64.units x).natAbs ≤ 2 ^ 52 * F64.unitsOf largestSum := by
    rw [F64.natAbs_two_pow_mul_units]
    exact Nat.mul_le_mul_left _ (F64.mag_le_of_bits_le hx.bits_le)
  exact boundedBy_of_isRounding (F64.div_sqrt2_isRounding hx.finite) (by decide) hz (by decide +kernel) (by decide)

theorem axisDistance_boundedBy {a b : Int} (hipt : inchesPerTick c i = defaultIpt) (ha : a.natAbs ≤ 2 ^ 32 - 1)
    (hb : b.natAbs ≤ 2 ^ 32 - 1) : BoundedBy (axisDistance c i a b) 0x4151C5831ACB9D61 := by
  rw [axisDistance_eq]
  exact div_sqrt2_boundedBy (axisSum_boundedBy i (scaledDelta_boundedBy hipt ha) (scaledDelta_boundedBy hipt hb))

end

/-- Settles O49: the rounding is monotone, so the largest deltas on both channels bound every operation. -/
theorem defaultResultsAreFiniteAndBounded : Obligations.DefaultResultsAreFiniteAndBounded := by
  intro s i ha hb hipt
  refine ⟨_, exec_axs i s, ?_⟩
  rw [s.res_axisStep_of_valid i (State.sampleValid_of_flags ha hb)]
  obtain ⟨hfin, hbits⟩ := axisDistance_boundedBy hipt (natAbs_tick_sub_le s.argA (s.lastA i))
    (natAbs_tick_sub_le s.argB (s.lastB i))
  exact ⟨hfin, hbits⟩

/-! ### The sentences of rule R108 that fail -/

/-- A default core whose two channels both move from the least count to the largest in one sample. -/
def largestMove : State :=
  { State.reset with
    argA := 0x7FFFFFFF#32
    argB := 0x7FFFFFFF#32
    argIn := 3#5
    lastAF := 0x80000000#32
    lastBF := 0x80000000#32 }

theorem res_largestMove : (largestMove.axisStep .forward).res .forward = 0x4151C5831ACB9D61#64 := by decide +kernel

/-- Refutes O50: with the largest delta on both channels at once the result is twice the printed bound. -/
theorem not_largestMagnitudeAsPrinted : ¬ Obligations.LargestMagnitudeAsPrinted := by
  intro h
  have hle := h largestMove _ .forward rfl rfl rfl (exec_axs .forward largestMove)
  rw [res_largestMove] at hle
  exact absurd hle (by decide)

/-- A core with the largest finite wheel diameter, one tick after the last sample on both channels. -/
def hugeWheel : State :=
  { State.reset with
    cfg := { Config.default with wdF := 0x7FEFFFFFFFFFFFFF#64 }
    argA := 1#32
    argB := 1#32
    argIn := 3#5 }

theorem res_hugeWheel : (hugeWheel.axisStep .forward).res .forward = F64.inf false := by decide +kernel

/-- Refutes O51: PI64 times the largest finite diameter is infinite, and so is the distance of one tick. -/
theorem not_legalConfigurationNeverOverflows : ¬ Obligations.LegalConfigurationNeverOverflows := by
  intro h
  have hfin := h hugeWheel _ .forward rfl rfl (by decide) (exec_axs .forward hugeWheel)
  rw [res_hugeWheel] at hfin
  exact absurd hfin (by decide)

end Sys2Proof.Machine

/-! The law of rule R109 in exact arithmetic: the errors of the operations add up, first as whole units of 2^-1074, then
as values. -/

namespace Sys2Proof.Machine

/-! ### The sum of the errors -/

/-- The two rounded sums, each projected with its own error, give back twice the first motion. In the order of rule
R103: u and v are the exact motions, A and B their roundings, S and D the roundings of A + B and A - B, F and L the
projections of S and D. -/
theorem projections_sum_error {A B u v S D F L m : Int} (hm : m ≤ 2 ^ 53) (hmotion : 2 ^ 54 ≤ |u| + |v|)
    (hA : F64.Near A u) (hB : F64.Near B v) (hS : F64.Near S (A + B)) (hD : F64.Near D (A - B))
    (hF : 2 ^ 53 * |F - 2 ^ 52 * S| ≤ |2 ^ 52 * S| + 2 ^ 52 * m)
    (hL : 2 ^ 53 * |L - 2 ^ 52 * D| ≤ |2 ^ 52 * D| + 2 ^ 52 * m) :
    2 ^ 50 * |F + L - 2 ^ 53 * u| ≤ 2 ^ 52 * (|u| + |v|) := by
  have htotal : |F + L - 2 ^ 53 * u| ≤
      |F - 2 ^ 52 * S| + |L - 2 ^ 52 * D| + 2 ^ 52 * |S - (A + B)| + 2 ^ 52 * |D - (A - B)| + 2 ^ 53 * |A - u| := by
    have hsplit : F + L - 2 ^ 53 * u =
        F - 2 ^ 52 * S + (L - 2 ^ 52 * D) + 2 ^ 52 * (S - (A + B)) + 2 ^ 52 * (D - (A - B)) + 2 ^ 53 * (A - u) := by
      ring
    have habs (k : Nat) (z : Int) : |2 ^ k * z| = 2 ^ k * |z| := by rw [abs_mul, abs_pow, abs_two]
    rw [hsplit, ← habs, ← habs, ← habs]
    refine (abs_add_le _ _).trans (add_le_add_left ?_ _)
    refine (abs_add_le _ _).trans (add_le_add_left ?_ _)
    exact (abs_add_le _ _).trans (add_le_add_left (abs_add_le _ _) _)
  have hsizeA := hA.abs_le
  have hsizeB := hB.abs_le
  have hsizeS := hS.abs_le
  have hsizeD := hD.abs_le
  have hsum := abs_add_le A B
  have hdiff := abs_sub A B
  rw [abs_mul, abs_of_nonneg (by decide : (0 : Int) ≤ 2 ^ 52)] at hF hL
  unfold F64.Near at hA hS hD
  linarith [abs_nonneg v]

/-! ### The errors of one result -/

/-- A delta scaled by the default inchesPerTick exactly, in units of 2^-1074. -/
def exactMotion (d : Int) : Int := d * F64.units defaultIpt

/-- A delta scaled as the core does, in units of 2^-1074. -/
def scaledMotion (d : Int) : Int := F64.units (F64.mul (F64.ofInt d) defaultIpt)

/-- x times SQRT2_64 exactly, in units of 2^-1126. -/
def unprojected (x : F64) : Int := F64.units x * F64.sqrt2Significand

@[simp] theorem unprojected_neg (x : F64) : unprojected (F64.neg x) = -unprojected x := by
  rw [unprojected, F64.units_neg, Int.neg_mul, ← unprojected]

theorem units_scaledDelta {c : Config} {i : AxisInst} (hipt : inchesPerTick c i = defaultIpt) (d : Int) :
    F64.units (scaledDelta c i d) = scaledMotion d := by rw [scaledDelta, hipt, scaledMotion]

theorem scaledMotion_near {c : Config} {i : AxisInst} (hipt : inchesPerTick c i = defaultIpt) {d : Int}
    (hd : d.natAbs ≤ 2 ^ 32 - 1) : F64.Near (scaledMotion d) (exactMotion d) :=
  units_scaledDelta hipt d ▸ (scaledDelta_isRounding hipt hd).near (scaledDelta_boundedBy hipt hd).finite

/-- The roundings of the sum or difference and of the quotient (rule R103, steps 4 and 5). -/
theorem axisDistance_error {c : Config} {i : AxisInst} {a b : Int} (hipt : inchesPerTick c i = defaultIpt)
    (ha : a.natAbs ≤ 2 ^ 32 - 1) (hb : b.natAbs ≤ 2 ^ 32 - 1) :
    ∃ S : Int, F64.Near S (exactSum i (scaledMotion a) (scaledMotion b)) ∧
      2 ^ 53 * |unprojected (axisDistance c i a b) - 2 ^ 52 * S| ≤
        |2 ^ 52 * S| + 2 ^ 52 * (F64.sqrt2Significand : Int) := by
  have hbA := scaledDelta_boundedBy hipt ha
  have hbB := scaledDelta_boundedBy hipt hb
  have hbS := axisSum_boundedBy i hbA hbB
  have hround := axisSum_isRounding i hbA.finite hbB.finite
  rw [units_scaledDelta hipt, units_scaledDelta hipt] at hround
  rw [axisDistance_eq]
  exact ⟨_, hround.near hbS.finite,
    (F64.div_sqrt2_isRounding hbS.finite).error_le (by decide) (div_sqrt2_boundedBy hbS).finite⟩

/-- One tick on either channel is more than the absolute errors of the two quotients. -/
theorem le_exactMotion_add {a b : Int} (h : ¬(a = 0 ∧ b = 0)) : 2 ^ 54 ≤ |exactMotion a| + |exactMotion b| := by
  have hipt : 2 ^ 54 ≤ F64.units defaultIpt := by decide +kernel
  have hpos : 0 ≤ F64.units defaultIpt := le_trans (by decide) hipt
  have hticks : 1 ≤ |a| + |b| := by
    rw [Int.abs_eq_natAbs, Int.abs_eq_natAbs]
    omega
  rw [exactMotion, exactMotion, abs_mul, abs_mul, abs_of_nonneg hpos, ← add_mul]
  exact hipt.trans (le_mul_of_one_le_left hpos hticks)

/-- The law of rule R109 in units: the sum of the two results gives back the first delta, and their difference the
second. -/
theorem axisDistance_invert {c : Config} {a b : Int} (hF : inchesPerTick c .forward = defaultIpt)
    (hL : inchesPerTick c .lateral = defaultIpt) (ha : a.natAbs ≤ 2 ^ 32 - 1) (hb : b.natAbs ≤ 2 ^ 32 - 1) :
    2 ^ 50 * |unprojected (axisDistance c .forward a b) + unprojected (axisDistance c .lateral a b)
        - 2 ^ 53 * exactMotion a| ≤ 2 ^ 52 * (|exactMotion a| + |exactMotion b|) ∧
      2 ^ 50 * |unprojected (axisDistance c .forward a b) + unprojected (F64.neg (axisDistance c .lateral a b))
        - 2 ^ 53 * exactMotion b| ≤ 2 ^ 52 * (|exactMotion b| + |exactMotion a|) := by
  by_cases hzero : a = 0 ∧ b = 0
  · obtain ⟨rfl, rfl⟩ := hzero
    have hfin : F64.isFinite defaultIpt = true ∧ F64.sign defaultIpt = false := by decide
    rw [axisDistance_zero (hF ▸ hfin.1) (hF ▸ hfin.2), axisDistance_zero (hL ▸ hfin.1) (hL ▸ hfin.2)]
    decide +kernel
  · have hm : (F64.sqrt2Significand : Int) ≤ 2 ^ 53 := by decide
    have hmotion := le_exactMotion_add hzero
    have hA := scaledMotion_near hF ha
    have hB := scaledMotion_near hF hb
    obtain ⟨S, hS, herrS⟩ := axisDistance_error hF ha hb
    obtain ⟨D, hD, herrD⟩ := axisDistance_error hL ha hb
    refine ⟨projections_sum_error hm hmotion hA hB hS hD herrS herrD, ?_⟩
    -- The difference is the sum of the first projection and of the negated second, with the channels exchanged.
    have hS' : F64.Near S (scaledMotion b + scaledMotion a) := Int.add_comm _ _ ▸ hS
    have hD' : F64.Near (-D) (scaledMotion b - scaledMotion a) := neg_sub (scaledMotion a) _ ▸ hD.neg
    refine projections_sum_error hm (add_comm |exactMotion a| _ ▸ hmotion) hB hA hS' hD' herrS ?_
    rwa [unprojected_neg, Int.mul_neg, abs_neg, neg_sub_neg, abs_sub_comm]

/-! ### The law on values -/

/-- The law of two whole numbers f and l over a common scale D, with SQRT2_64 as m over 2^52. -/
theorem scaled_error_le {D : Rat} (hD : 0 < D) {f l m a b w : Int} (hw : 0 ≤ w)
    (h : 2 ^ 50 * |f * m + l * m - 2 ^ 53 * (a * w)| ≤ 2 ^ 52 * (|a * w| + |b * w|)) :
    |((f : Rat) / D + l / D) * (m / 2 ^ 52) - 2 * a * (w / D)| * 2 ^ 50 ≤ (|(a : Rat)| + |(b : Rat)|) * (w / D) := by
  have hscale : (0 : Rat) < 2 ^ 52 * D := mul_pos (by positivity) hD
  have hexact : ((f : Rat) / D + l / D) * (m / 2 ^ 52) - 2 * a * (w / D) =
      ((f * m + l * m - 2 ^ 53 * (a * w) : Int) : Rat) / (2 ^ 52 * D) := by
    push_cast
    field_simp
    ring
  have hcast : (2 : Rat) ^ 50 * |((f * m + l * m - 2 ^ 53 * (a * w) : Int) : Rat)| ≤
      2 ^ 52 * ((|(a : Rat)| + |(b : Rat)|) * w) := by
    rw [abs_mul a, abs_mul b, abs_of_nonneg hw, ← add_mul |a|] at h
    exact_mod_cast h
  rw [hexact, abs_div, abs_of_pos hscale, div_mul_eq_mul_div, div_le_iff₀ hscale, mul_comm |_|]
  refine hcast.trans_eq ?_
  field_simp

/-- The law in units is the law on values. -/
theorem value_error_le {x y : F64} {a b : Int}
    (h : 2 ^ 50 * |unprojected x + unprojected y - 2 ^ 53 * exactMotion a| ≤
      2 ^ 52 * (|exactMotion a| + |exactMotion b|)) :
    |(F64.value x + F64.value y) * F64.value sqrt2 - 2 * (a : Rat) * F64.value defaultIpt| * 2 ^ 50 ≤
      (|(a : Rat)| + |(b : Rat)|) * F64.value defaultIpt := by
  have hscale : (0 : Rat) < 2 ^ 1074 := pow_pos two_pos _
  have hipt : 0 ≤ F64.units defaultIpt := by decide +kernel
  rw [F64.value_sqrt2, F64.value, F64.value, F64.value]
  exact scaled_error_le hscale hipt h

/-- Settles O56: both instances scale one pair of deltas, and the errors of their roundings add up to less than the
bound. -/
theorem transformInvertsWithinRounding : Obligations.TransformInvertsWithinRounding := by
  intro s hva hvb hF hL hlastA hlastB
  have hA : s.deltaA .lateral = s.deltaA .forward := by simp only [State.deltaA, State.lastA, hlastA]
  have hB : s.deltaB .lateral = s.deltaB .forward := by simp only [State.deltaB, State.lastB, hlastB]
  obtain ⟨hsum, hdiff⟩ := axisDistance_invert hF hL (a := s.deltaA .forward) (b := s.deltaB .forward)
    (natAbs_tick_sub_le _ _) (natAbs_tick_sub_le _ _)
  refine ⟨_, (exec_axs2 s).trans (congrArg _ (s.axisStep_both_of_valid (State.sampleValid_of_flags hva hvb))), ?_⟩
  rw [hA, hB]
  refine ⟨value_error_le hsum, ?_⟩
  rw [sub_eq_add_neg (F64.value _), ← F64.value_neg, add_comm |_|]
  exact value_error_le hdiff

end Sys2Proof.Machine

/-! The command LVS as a whole (rules R131 to R138) and its actuator command (rule R144). -/

namespace Sys2Proof.Machine

/-! ### Speeds and transitions, case by case -/

/-- A stroke that has begun sees no trigger (rule R135). -/
theorem afterTrigger_of_ne_idle {st : LeverState} (h : st ≠ .idle) (trig : Bool) : afterTrigger st trig = st := by
  cases st with
  | idle => exact absurd rfl h
  | extending | retracting => rfl

theorem afterPosition_extending_of_short {c : Config} {pos : F64} (h : extendDone c pos = false) :
    afterPosition c .extending pos = .extending := by
  rw [afterPosition, h]
  rfl

theorem afterPosition_retracting_of_short {c : Config} {pos : F64} (h : retractDone c pos = false) :
    afterPosition c .retracting pos = .retracting := by
  rw [afterPosition, h]
  rfl

theorem cruiseSpeed_cases (c : Config) (aux : Bool) : cruiseSpeed c aux = c.fast ∨ cruiseSpeed c aux = c.slow := by
  cases aux
  · exact .inr rfl
  · exact .inl rfl

/-- A command's speed is one of the configuration's four (rule R144). -/
theorem commandSpeed_cases (c : Config) (st : LeverState) (pos : F64) (aux : Bool) :
    commandSpeed c st pos aux = c.boost ∨ commandSpeed c st pos aux = c.fast ∨ commandSpeed c st pos aux = c.slow ∨
      commandSpeed c st pos aux = c.hold := by
  have hcruise := cruiseSpeed_cases c aux
  cases st with
  | idle => exact .inr (.inr (.inr rfl))
  | extending =>
    show extendSpeed c pos aux = c.boost ∨ extendSpeed c pos aux = c.fast ∨ extendSpeed c pos aux = c.slow ∨ _
    rcases extendSpeed_eq c pos aux with h | h <;> rw [h]
    · exact .inl rfl
    · exact .inr (hcruise.imp_right .inl)
  | retracting => exact .inr (hcruise.imp_right .inl)

/-! ### LVS -/

theorem exec_lvs (s : State) : exec .lvs s = .next s.leverStep := rfl

theorem State.eq_leverStep_of_exec {s t : State} (h : exec .lvs s = .next t) : t = s.leverStep := by
  rw [exec_lvs] at h
  cases h
  rfl

/-- LeverStep in the terms of the statements: the state after the trigger transition gives the command and takes the
position transition (rule R138), and the detectors observe. -/
theorem State.leverStepResult_leverStep (s : State) :
    leverStepResult s s.leverStep (commandTarget s.cfg (afterTrigger s.status.lever s.triggerEdge) s.argPos)
      (commandSpeed s.cfg (afterTrigger s.status.lever s.triggerEdge) s.argPos s.aux)
      (afterPosition s.cfg (afterTrigger s.status.lever s.triggerEdge) s.argPos)
      (s.triggerEdge && decide (s.status.lever = .idle)) (s.triggerEdge && decide (s.status.lever ≠ .idle)) := by
  refine ⟨rfl, fun n => ?_, fun n => ?_⟩
  · rw [State.leverStep_edgeLast, State.observeTriggers_edgeLast_bit]
    rcases n with _ | _ | n <;> rfl
  · rw [State.leverStep_resEdge, State.observeTriggers_resEdge_bit]
    rcases n with _ | _ | n <;> rfl

/-- In Idle a trigger edge is accepted (rule R135). -/
theorem State.leverStepResult_of_idle {s : State} {trig : Bool} (hst : s.status.lever = .idle)
    (hedge : s.triggerEdge = trig) :
    leverStepResult s s.leverStep (commandTarget s.cfg (afterTrigger .idle trig) s.argPos)
      (commandSpeed s.cfg (afterTrigger .idle trig) s.argPos s.aux)
      (afterPosition s.cfg (afterTrigger .idle trig) s.argPos) trig false := by
  have h := s.leverStepResult_leverStep
  rwa [hst, hedge, decide_eq_true rfl, Bool.and_true, decide_eq_false (not_not_intro rfl), Bool.and_false] at h

/-- In a stroke that has begun a trigger edge is ignored (rule R135). -/
theorem State.leverStepResult_of_moving {s : State} {st : LeverState} (hst : s.status.lever = st)
    (hmoving : st ≠ .idle) :
    leverStepResult s s.leverStep (commandTarget s.cfg st s.argPos) (commandSpeed s.cfg st s.argPos s.aux)
      (afterPosition s.cfg st s.argPos) false s.triggerEdge := by
  have h := s.leverStepResult_leverStep
  rwa [hst, afterTrigger_of_ne_idle hmoving, decide_eq_false hmoving, Bool.and_false, decide_eq_true hmoving,
    Bool.and_true] at h

/-- Settles O17: no edge, so the command and the state are those of Idle. -/
theorem leverHoldsWhileIdle : Obligations.LeverHoldsWhileIdle :=
  fun s hst hedge => ⟨_, exec_lvs s, State.leverStepResult_of_idle hst hedge⟩

/-- Settles O18: the edge takes the lever to Extending before the command and the position transition. -/
theorem triggerStartsExtending : Obligations.TriggerStartsExtending :=
  fun s hst hedge => ⟨_, exec_lvs s, State.leverStepResult_of_idle hst hedge⟩

/-- Settles O19: the lever step of a begun stroke, at Extending. -/
theorem leverExtends : Obligations.LeverExtends :=
  fun s hst => ⟨_, exec_lvs s, State.leverStepResult_of_moving hst (by decide)⟩

/-- Settles O20: the lever step of a begun stroke, at Retracting. -/
theorem leverRetracts : Obligations.LeverRetracts :=
  fun s hst => ⟨_, exec_lvs s, State.leverStepResult_of_moving hst (by decide)⟩

/-- Settles O43, by computing the three thresholds. -/
theorem defaultThresholdsAreExact : Obligations.DefaultThresholdsAreExact := by
  unfold Obligations.DefaultThresholdsAreExact
  decide +kernel

/-- In a stroke that has begun only the detectors and TIGN depend on the triggers (rule R144). -/
theorem State.leverStep_of_ne_idle {s : State} (h : s.status.lever ≠ .idle) :
    s.leverStep =
      { s.observeTriggers with
        resTgt := commandTarget s.cfg s.status.lever s.argPos
        resSpd := commandSpeed s.cfg s.status.lever s.argPos s.aux
        status :=
          { s.status with
            lever := afterPosition s.cfg s.status.lever s.argPos
            cmdv := true
            tacc := false
            tign := s.triggerEdge } } := by
  obtain ⟨heq, _, _⟩ := State.leverStepResult_of_moving rfl h
  exact heq

/-- Settles O40: the state after the trigger transition gives target and speed, and while Extending it is the same for
all trigger inputs and stored samples. -/
theorem noRetriggerWhileExtending : Obligations.NoRetriggerWhileExtending := by
  refine ⟨fun s t hl h => ?_, fun s inputs samples hst haux => ?_⟩
  · obtain rfl := State.eq_leverStep_of_exec h
    rw [State.leverStep_resTgt, State.leverStep_resSpd]
    refine ⟨?_, fun hst => by rw [hst]; rfl, fun hst hedge => ?_, commandSpeed_cases _ _ _ _, commandSpeed_le hl _ _ _⟩
    · rintro (hst | ⟨hst, hedge⟩)
      · rw [hst]; rfl
      · rw [hst, show s.trigger = true from hedge]; rfl
    · rw [hst, show s.trigger = false from hedge]; rfl
  · have hne : s.status.lever ≠ .idle := by simp [hst]
    have haux' : State.aux { s with argIn := inputs, edgeLast := samples } = s.aux := haux
    refine ⟨_, _, exec_lvs s, exec_lvs _, by rw [State.leverStep_resTgt, hst]; rfl, ?_⟩
    rw [State.leverStep_of_ne_idle hne,
      State.leverStep_of_ne_idle (s := { s with argIn := inputs, edgeLast := samples }) hne, haux']
    rfl

end Sys2Proof.Machine

/-! The lever's position against its thresholds: overlapping zones (rule R133) and a NaN (rule R140). -/

namespace Sys2Proof

/-- Of two ordered bounds the value is at or below the upper one or at or above the lower one. -/
theorem F64.le_or_ge_of_le {lo hi x : F64} (h : F64.le lo hi = true) (hx : F64.isNaN x = false) :
    F64.le x hi = true ∨ F64.ge x lo = true := by
  obtain ⟨hlo, hhi, hkey⟩ := F64.le_eq_true.1 h
  rcases le_total (F64.key x) (F64.key hi) with hle | hge
  · exact .inl (F64.le_eq_true.2 ⟨hx, hhi, hle⟩)
  · exact .inr (F64.ge_eq_true.2 ⟨hx, hlo, hkey.trans hge⟩)

end Sys2Proof

namespace Sys2Proof.Machine

/-- Settles O38: every position is in the launch zone or in the snap zone; and LeverStep writes no error field. -/
theorem overlappingZonesBoost : Obligations.OverlappingZonesBoost := by
  refine ⟨fun c pos aux _ hoverlap hpos => ?_, fun s t h => ?_⟩
  · unfold extendSpeed
    rcases F64.le_or_ge_of_le hoverlap hpos with h | h
    · rw [if_pos h]
    · rw [if_pos h, ite_self]
  · obtain rfl := State.eq_leverStep_of_exec h
    exact ⟨rfl, rfl, rfl⟩

section

variable {pos : F64} (hpos : F64.isNaN pos = true)
include hpos

/-- A NaN is in neither boost zone (rule R140). -/
theorem extendSpeed_of_nan (c : Config) (aux : Bool) : extendSpeed c pos aux = cruiseSpeed c aux := by
  rw [extendSpeed, F64.le_nan_left hpos, F64.ge_nan_left hpos]
  rfl

/-- A NaN ends no stroke (rule R140). -/
theorem afterPosition_of_nan (c : Config) (st : LeverState) : afterPosition c st pos = st := by
  cases st with
  | idle => rfl
  | extending => exact afterPosition_extending_of_short (F64.ge_nan_left hpos _)
  | retracting => exact afterPosition_retracting_of_short (F64.le_nan_left hpos _)

theorem commandSpeed_of_nan (c : Config) {st : LeverState} (h : st ≠ .idle) (aux : Bool) :
    commandSpeed c st pos aux = cruiseSpeed c aux := by
  cases st with
  | idle => exact absurd rfl h
  | extending => exact extendSpeed_of_nan hpos c aux
  | retracting => rfl

end

/-- Settles O39: the state after the step is the one after the trigger transition. -/
theorem naNPositionNeverTransitions : Obligations.NaNPositionNeverTransitions := by
  intro s hpos
  have hlever : s.leverStep.status.lever = afterTrigger s.status.lever s.triggerEdge := afterPosition_of_nan hpos _ _
  refine ⟨_, exec_lvs s, fun hst hedge => ⟨?_, ?_⟩, fun hst hedge => ?_, fun hst => ?_, fun hst => ?_, fun hmoving => ?_⟩
  · rw [hlever, hst, hedge]; rfl
  · rw [State.leverStep_resTgt, hst, show s.trigger = false from hedge]; rfl
  · rw [hlever, hst, hedge]; rfl
  · rw [hlever, hst]; rfl
  · rw [hlever, hst]; rfl
  · rw [hlever] at hmoving
    exact (State.leverStep_resSpd s).trans (commandSpeed_of_nan hpos _ hmoving _)

end Sys2Proof.Machine

/-! The lever over one event (rules R142, R143). -/

namespace Sys2Proof.Machine

theorem State.leverStep_lever (s : State) :
    s.leverStep.status.lever = afterPosition s.cfg (afterTrigger s.status.lever s.triggerEdge) s.argPos := rfl

theorem State.axisStep_lever (s : State) (i : AxisInst) : (s.axisStep i).status.lever = s.status.lever := by
  rw [State.axisStep_status]
  cases i <;> rfl

/-- An AxisStep before it changes nothing for the lever (rule R171). -/
theorem State.leverStep_lever_axisStep (s : State) (i : AxisInst) :
    (s.axisStep i).leverStep.status.lever = s.leverStep.status.lever := by
  simp only [State.leverStep_lever, State.triggerEdge, State.axisStep_lever, State.axisStep_cfg, State.axisStep_argIn,
    State.axisStep_edgeLast, State.axisStep_argPos]

/-- The lever after one event: Idle after a reset, LeverStep's after LVS or CYC, and otherwise as before. -/
theorem EventLeaves.lever {s t : State} {e : Event} (h : EventLeaves s e t) :
    (e.isReset = true ∧ t.status.lever = .idle) ∨
      (e.isReset = false ∧ e.isLeverStep = true ∧ t.status.lever = s.leverStep.status.lever) ∨
      (e.isReset = false ∧ t.status.lever = s.status.lever) := by
  cases h with
  | reset h => exact .inl ⟨h, rfl⟩
  | lvs hn hc => exact .inr (.inl ⟨hn, by simp [Event.isLeverStep, hc], rfl⟩)
  | cyc hn hc =>
    exact .inr (.inl ⟨hn, by simp [Event.isLeverStep, hc], by simp only [State.leverStep_lever_axisStep]⟩)
  | answered a v hn => exact .inr (.inr ⟨hn, by rw [State.answer_status]⟩)
  | accessError a c hn => exact .inr (.inr ⟨hn, by rw [State.accessError_status]; rfl⟩)
  | axs i hn => exact .inr (.inr ⟨hn, s.axisStep_lever i⟩)
  | axs2 hn => exact .inr (.inr ⟨hn, by simp only [State.axisStep_lever]⟩)
  | argA _ _ hn | argB _ _ hn | argPos _ _ hn | argIn _ _ hn | illegalWord _ hn | nop hn | edg _ _ _ hn
    | illegalIndex _ _ hn => exact .inr (.inr ⟨hn, rfl⟩)

/-- The lever step of s takes the lever to st by a transition of rule R134 or R135, or by both (rule R143). -/
def State.LeverTransition (s : State) (st : LeverState) : Prop :=
  (s.status.lever = .idle ∧ st = .extending ∧ s.triggerEdge = true ∧ extendDone s.cfg s.argPos = false) ∨
    (s.status.lever = .idle ∧ st = .retracting ∧ s.triggerEdge = true ∧ extendDone s.cfg s.argPos = true) ∨
    (s.status.lever = .extending ∧ st = .retracting ∧ extendDone s.cfg s.argPos = true) ∨
    (s.status.lever = .retracting ∧ st = .idle ∧ retractDone s.cfg s.argPos = true)

/-- A lever step that moves the lever moves it by its transitions. -/
theorem State.leverTransition_of_ne (s : State) (h : s.leverStep.status.lever ≠ s.status.lever) :
    s.LeverTransition s.leverStep.status.lever := by
  unfold State.LeverTransition
  rw [State.leverStep_lever] at h ⊢
  cases hst : s.status.lever <;> rw [hst] at h
  case idle =>
    cases hedge : s.triggerEdge with
    | false => rw [hedge] at h; exact absurd rfl h
    | true => cases hdone : extendDone s.cfg s.argPos <;> simp [afterTrigger, afterPosition, hdone]
  case extending =>
    cases hdone : extendDone s.cfg s.argPos with
    | false => exact absurd (afterPosition_extending_of_short hdone) h
    | true => simp [afterTrigger, afterPosition, hdone]
  case retracting =>
    cases hdone : retractDone s.cfg s.argPos with
    | false => exact absurd (afterPosition_retracting_of_short hdone) h
    | true => simp [afterTrigger, afterPosition, hdone]

/-- Settles O35: an event that is no reset moves the lever only as LeverStep does. -/
theorem leverMovesOnlyByItsTransitions : Obligations.LeverMovesOnlyByItsTransitions := by
  intro s t hstep
  obtain ⟨_, ⟨hnext, rfl⟩ | ⟨e, rest, hnext, he⟩⟩ := step_leaves hstep
  · refine ⟨?_, fun _ hne => absurd rfl hne⟩
    rintro ⟨e, he, _⟩
    cases hnext.symm.trans he
  · constructor
    · rintro ⟨e', he', hreset⟩
      cases hnext.symm.trans he'
      rw [he.errors_of_reset hreset]
      rfl
    · intro hreset hne
      rcases he.lever with ⟨hr, _⟩ | ⟨_, hls, hlever⟩ | ⟨_, hlever⟩
      · cases hr.symm.trans (hreset e hnext)
      · refine ⟨⟨e, hnext, hls⟩, ?_⟩
        rw [hlever] at hne ⊢
        exact (s.withPending rest).leverTransition_of_ne hne
      · exact absurd hlever hne

end Sys2Proof.Machine

/-! A stalled lever over a run (rule R141): its state, with a position short of the threshold, is the invariant. -/

namespace Sys2Proof.Machine

theorem Event.eq_write_of_writesTo {e : Event} {off : BitVec 8} (h : e.writesTo off = true) :
    ∃ ag v, e = .access ⟨ag, off, 8, .write v⟩ := by
  cases e with
  | resetInput => cases h
  | access a =>
    obtain ⟨ag, o, w, op⟩ := a
    cases op with
    | read => cases h
    | write v =>
      simp only [Event.writesTo, Bool.and_eq_true, beq_iff_eq] at h
      obtain ⟨rfl, rfl⟩ := h
      exact ⟨ag, v, rfl⟩

theorem State.happen_leaves {s t : State} {e : Event} (h : s.happen e = .next t) : EventLeaves s e t :=
  Effect.leaves (h ▸ s.happen_effect e)

/-- The position after an event that is no reset: the one it writes, or the same as before (rule R33). -/
theorem State.happen_argPos {s t : State} {e : Event} (h : s.happen e = .next t) (hn : e.isReset = false) :
    (∃ ag v, e = .access ⟨ag, 0x20#8, 8, .write v⟩ ∧ t.argPos = v) ∨ t.argPos = s.argPos := by
  cases hw : e.writesTo 0x20#8 with
  | false =>
    obtain ⟨_, _, hpos, _⟩ := (State.happen_leaves h).operands hn
    exact .inr (hpos hw)
  | true =>
    obtain ⟨ag, v, rfl⟩ := Event.eq_write_of_writesTo hw
    cases (s.happen_write ag .argPos v).symm.trans h
    exact .inl ⟨ag, v, rfl, rfl⟩

theorem positionsAll_cons {ok : F64 → Bool} {e : Event} {es : List Event} (h : positionsAll ok (e :: es) = true) :
    e.isReset = false ∧ (∀ ag v, e = .access ⟨ag, 0x20#8, 8, .write v⟩ → ok v = true) ∧
      positionsAll ok es = true := by
  simp only [positionsAll, List.all_cons, Bool.and_eq_true, Bool.not_eq_true'] at h
  obtain ⟨⟨hn, hwrite⟩, hes⟩ := h
  refine ⟨hn, ?_, hes⟩
  rintro ag v rfl
  simpa using hwrite

/-- The lever is in st, at a position that `short` accepts. -/
def State.Stalled (s : State) (st : LeverState) (short : F64 → Bool) : Prop :=
  s.status.lever = st ∧ short s.argPos = true

section

variable {st : LeverState} {short : F64 → Bool} (hmoving : st ≠ .idle)
include hmoving

/-- Where no accepted position ends the stroke, an event that writes no other position keeps the lever stalled. -/
theorem State.Stalled.happen {s t : State} {e : Event} (hs : s.Stalled st short)
    (hstays : ∀ p, short p = true → afterPosition s.cfg st p = st) (h : s.happen e = .next t)
    (hn : e.isReset = false) (hwrite : ∀ ag v, e = .access ⟨ag, 0x20#8, 8, .write v⟩ → short v = true) :
    t.Stalled st short := by
  obtain ⟨hst, hpos⟩ := hs
  constructor
  · rcases (State.happen_leaves h).lever with ⟨hr, _⟩ | ⟨_, _, hlever⟩ | ⟨_, hlever⟩
    · cases hr.symm.trans hn
    · rw [hlever, State.leverStep_lever, hst, afterTrigger_of_ne_idle hmoving, hstays _ hpos]
    · rw [hlever, hst]
  · rcases State.happen_argPos h hn with ⟨ag, v, he, hv⟩ | hsame
    · rw [hv, hwrite ag v he]
    · rw [hsame, hpos]

/-- The invariant over a run, one event at a time. -/
theorem runs_of_stalled (es : List Event) :
    ∀ s : State, Config.legal s.cfg = true → (∀ p, short p = true → afterPosition s.cfg st p = st) →
      s.Stalled st short → positionsAll short es = true →
      ∃ t, Runs es.length (s.withPending es) t ∧ t.status.lever = st := by
  induction es with
  | nil => exact fun s _ _ hs _ => ⟨_, rfl, hs.1⟩
  | cons e es ih =>
    intro s hl hstays hs hall
    obtain ⟨hn, hwrite, hes⟩ := positionsAll_cons hall
    obtain ⟨t, h⟩ := s.happen_completes e hl
    have hcfg := State.happen_cfg h
    obtain ⟨u, hrun, hu⟩ := ih t (hcfg ▸ hl) (hcfg ▸ hstays) (hs.happen hmoving hstays h hn hwrite) hes
    exact ⟨u, runs_cons hl h hrun, hu⟩

end

/-- Settles O41: short of its threshold, neither stroke's position transition fires. -/
theorem stalledLeverNeverReturns : Obligations.StalledLeverNeverReturns := fun s es hl =>
  ⟨fun hst hpos hall => runs_of_stalled (by decide) es s hl
      (fun _ hp => afterPosition_extending_of_short (by simpa using hp)) ⟨hst, by rw [hpos]; rfl⟩ hall,
    fun hst hpos hall => runs_of_stalled (by decide) es s hl
      (fun _ hp => afterPosition_retracting_of_short (by simpa using hp)) ⟨hst, by rw [hpos]; rfl⟩ hall⟩

end Sys2Proof.Machine

/-! The command EDG (rules R160, R162), and the edges a host reads over a sequence of samples (rule R161). -/

namespace Sys2Proof.Machine

/-! ### One observation -/

theorem exec_edg_of_legal_index (s : State) {idx : BitVec 4} (r : Bool) (hlo : 2 ≤ idx.toNat)
    (hhi : idx.toNat < s.cfg.nedge) : exec (.edg idx r) s = .next (s.edgeObserve idx.toNat r) :=
  if_neg (by omega)

/-- Settles O16: the frame of EdgeObserve, and its two registers bit by bit. -/
theorem edgObservesOneDetector : Obligations.EdgObservesOneDetector := by
  intro s idx r hlo hhi
  refine ⟨s.edgeObserve idx.toNat r, exec_edg_of_legal_index s r hlo hhi, rfl, fun n => ?_, fun n => ?_⟩
  · exact s.edgeObserve_edgeLast_bit _ n r idx.isLt
  · rw [s.edgeObserve_resEdge_bit _ n r idx.isLt]
    split
    · next h => rw [h]
    · rfl

/-! ### An observation and the read after it -/

theorem State.happen_write_edg (s : State) {idx : BitVec 4} (r : Bool) (hlo : 2 ≤ idx.toNat)
    (hhi : idx.toNat < s.cfg.nedge) :
    s.happen (Event.write .cmd (encode (.edg idx r))) = .next (s.edgeObserve idx.toNat r) := by
  calc s.happen (Event.write .cmd (encode (.edg idx r))) = s.command (encode (.edg idx r)) :=
        s.happen_write .host .cmd _
    _ = exec (.edg idx r) s := by rw [State.command, decodeCommand_encode]
    _ = .next (s.edgeObserve idx.toNat r) := exec_edg_of_legal_index s r hlo hhi

/-- RES_EDGE reads as its 16 stored bits (rule R39). -/
theorem State.readReg_resEdge_bit (s : State) {k : Nat} (hk : k < 16) :
    (s.readReg .resEdge).getLsbD k = s.resEdge.getLsbD k := by
  have hlt : k < 64 := by omega
  simp [State.readReg, hlt]

/-- What the host reads from RES_EDGE after detector n observed r. -/
def State.edgeReply (s : State) (n : Nat) (r : Bool) : Reply := ⟨.host, (s.edgeObserve n r).readReg .resEdge⟩

theorem State.edgeReply_bit (s : State) {n : Nat} (r : Bool) (hn : n < 16) :
    (s.edgeReply n r).value.getLsbD n = (r && !s.edgeLast.getLsbD n) := by
  rw [State.edgeReply, State.readReg_resEdge_bit _ hn, State.edgeObserve_resEdge_bit _ _ _ _ hn, if_pos rfl]

/-- The state after detector n observed r and the host read RES_EDGE. -/
def State.observedAndRead (s : State) (n : Nat) (r : Bool) : State :=
  { s.edgeObserve n r with replies := s.edgeReply n r :: s.replies }

theorem State.observedAndRead_edgeLast_bit (s : State) {n : Nat} (r : Bool) (hn : n < 16) :
    (s.observedAndRead n r).edgeLast.getLsbD n = r :=
  (s.edgeObserve_edgeLast_bit n n r hn).trans (if_pos rfl)

/-- The two accesses `edgeProgram` makes for each sample. -/
theorem runs_observe_and_read {s t : State} {idx : BitVec 4} {r : Bool} {es : List Event} {n : Nat}
    (hl : Config.legal s.cfg = true) (hlo : 2 ≤ idx.toNat) (hhi : idx.toNat < s.cfg.nedge)
    (hrun : Runs n ((s.observedAndRead idx.toNat r).withPending es) t) :
    Runs (n + 2) (s.withPending (Event.write .cmd (encode (.edg idx r)) :: Event.read .resEdge :: es)) t :=
  runs_cons hl (s.happen_write_edg r hlo hhi) (runs_cons hl (State.happen_read _ .host .resEdge) hrun)

/-! ### A sequence of samples -/

theorem length_risingEdges (prev : Bool) (raws : List Bool) : (risingEdges prev raws).length = raws.length := by
  induction raws generalizing prev with
  | nil => rfl
  | cons r raws ih => exact congrArg Nat.succ (ih r)

/-- The replies of the run, in the order of the reads: each sample is measured against the one stored before it. -/
theorem runs_edgeProgram (idx : BitVec 4) (raws : List Bool) (hlo : 2 ≤ idx.toNat) :
    ∀ s : State, Config.legal s.cfg = true → idx.toNat < s.cfg.nedge →
      ∃ (t : State) (read : List Reply), Runs (2 * raws.length) (s.withPending (edgeProgram idx raws)) t ∧
        t.replies = read.reverse ++ s.replies ∧
        read.map (fun p => p.value.getLsbD idx.toNat) = risingEdges (s.edgeLast.getLsbD idx.toNat) raws := by
  induction raws with
  | nil => exact fun s _ _ => ⟨s.withPending [], [], rfl, rfl, rfl⟩
  | cons r raws ih =>
    intro s hl hhi
    obtain ⟨t, read, hrun, hreplies, hbits⟩ := ih (s.observedAndRead idx.toNat r) hl hhi
    refine ⟨t, s.edgeReply idx.toNat r :: read, runs_observe_and_read hl hlo hhi hrun, ?_, ?_⟩
    · rw [hreplies, List.reverse_cons, List.append_assoc]
      rfl
    · rw [List.map_cons, hbits, s.edgeReply_bit r idx.isLt, s.observedAndRead_edgeLast_bit r idx.isLt, risingEdges]

/-- Settles O44: the replies the run adds are the latest ones, as many as there are samples. -/
theorem detectorEmitsExactlyTheRisingEdges : Obligations.DetectorEmitsExactlyTheRisingEdges := by
  intro s idx raws hl hlo hhi
  obtain ⟨t, read, hrun, hreplies, hbits⟩ := runs_edgeProgram idx raws hlo s hl hhi
  have hlen : read.reverse.length = raws.length := by
    rw [List.length_reverse, ← length_risingEdges (s.edgeLast.getLsbD idx.toNat) raws, ← hbits, List.length_map]
  exact ⟨t, hrun, by rw [hreplies, List.take_left' hlen, List.reverse_reverse, hbits]⟩

end Sys2Proof.Machine

/-! The control commands NOP, CYC and RST (rules R170 to R172). -/

namespace Sys2Proof.Machine

theorem exec_nop (s : State) : exec .nop s = .next s := rfl

theorem exec_cyc (s : State) : exec .cyc s = .next ((s.axisStep .forward).axisStep .lateral).leverStep := rfl

theorem exec_rst (s : State) : exec .rst s = .next s.resetCore := rfl

/-- STATUS after reset as the sum of its flags (rules R25, R26). -/
theorem statusWord_reset : statusWord Status.reset = 0x3#64 :=
  (Status.toWord_eq_statusWord _).symm.trans Status.toWord_reset

/-- Settles O11: NOP's meaning is the state itself. -/
theorem nopChangesNothing : Obligations.NopChangesNothing := exec_nop

/-- Settles O21: the state between is the one AXS2 answers, and the lever step of CYC starts from it. -/
theorem cycleIsBothAxesThenLever : Obligations.CycleIsBothAxesThenLever := fun s =>
  ⟨_, _, exec_axs2 s, exec_lvs _, exec_cyc s⟩

/-- Settles O6: the state RST answers is that of ResetCore, read field by field. -/
theorem rstSetsEveryResetValue : Obligations.RstSetsEveryResetValue := fun s =>
  ⟨s.resetCore, exec_rst s, s.resetCore_cfg, s.resetCore_pending, s.resetCore_replies,
    by rw [s.resetCore_status, statusWord_reset],
    s.resetCore_argA, s.resetCore_argB, s.resetCore_argPos, s.resetCore_argIn,
    s.resetCore_resF, s.resetCore_resL, s.resetCore_resTgt,
    s.resetCore_resSpd, s.resetCore_resEdge, s.resetCore_edgeLast,
    s.resetCore_lastAF, s.resetCore_lastBF, s.resetCore_lastAL, s.resetCore_lastBL⟩

end Sys2Proof.Machine

/-! The reset input and the reset state (rules R200 to R202), and counts within the 32-bit range (rule R208). -/

namespace Sys2Proof.Machine

/-- Settles O7: the reset input is the next event, and what happens is ResetCore, which is RST's meaning. -/
theorem resetInputActsAsRst : Obligations.ResetInputActsAsRst := fun s rest hl hp => by
  rw [step_of_pending hl hp, exec_rst]
  rfl

/-- A core that was just reset is what ResetCore makes of it (rule R202). -/
theorem State.resetCore_reset : State.reset.resetCore = State.reset := rfl

/-- Settles O9: ResetCore of any state has the invariant. -/
theorem resetSatisfiesInvariant : Obligations.ResetSatisfiesInvariant := by
  have hinv := State.reset.inv_resetCore
  rwa [State.resetCore_reset] at hinv

/-- Settles O53: within the range a register's signed value is the count written to it. -/
theorem countsInRangeGiveTrueMotion : Obligations.CountsInRangeGiveTrueMotion := by
  intro s i curr last hcurrLo hcurrHi hlastLo hlastHi
  have hcurr : (BitVec.ofInt 32 curr).toInt = curr := BitVec.toInt_ofInt_eq_self (by decide) hcurrLo hcurrHi
  have hlast : (BitVec.ofInt 32 last).toInt = last := BitVec.toInt_ofInt_eq_self (by decide) hlastLo hlastHi
  exact ⟨fun hA hA' => by rw [State.deltaA, hA, hA', hcurr, hlast],
    fun hB hB' => by rw [State.deltaB, hB, hB', hcurr, hlast]⟩

end Sys2Proof.Machine

/-! A second lever step on the same inputs (rule R212). -/

namespace Sys2Proof.Machine

/-- EDGE_LAST after a lever step, bit by bit (rule R138). -/
theorem State.leverStep_edgeLast_bit (s : State) (n : Nat) :
    s.leverStep.edgeLast.getLsbD n =
      if n = 0 then s.argIn.getLsbD 2 else if n = 1 then s.argIn.getLsbD 3 else s.edgeLast.getLsbD n :=
  have ⟨_, hlast, _⟩ := s.leverStepResult_leverStep
  hlast n

/-- RES_EDGE after a lever step, bit by bit (rule R138). -/
theorem State.leverStep_resEdge_bit (s : State) (n : Nat) :
    s.leverStep.resEdge.getLsbD n =
      if n = 0 then s.argIn.getLsbD 2 && !s.edgeLast.getLsbD 0
      else if n = 1 then s.argIn.getLsbD 3 && !s.edgeLast.getLsbD 1 else s.resEdge.getLsbD n :=
  have ⟨_, _, hres⟩ := s.leverStepResult_leverStep
  hres n

theorem State.leverStep_tacc (s : State) :
    s.leverStep.status.tacc = (s.triggerEdge && decide (s.status.lever = .idle)) := rfl

theorem State.leverStep_tign (s : State) :
    s.leverStep.status.tign = (s.triggerEdge && decide (s.status.lever ≠ .idle)) := rfl

/-- The trigger detectors hold the inputs of the lever step that observed them (rule R160). -/
theorem State.leverStep_samples (s : State) :
    s.leverStep.edgeLast.getLsbD 0 = s.leverStep.argIn.getLsbD 2 ∧
      s.leverStep.edgeLast.getLsbD 1 = s.leverStep.argIn.getLsbD 3 :=
  ⟨s.leverStep_edgeLast_bit 0, s.leverStep_edgeLast_bit 1⟩

/-- Observing the same inputs again changes no stored sample (rule R160). -/
theorem State.leverStep_leverStep_edgeLast (s : State) : s.leverStep.leverStep.edgeLast = s.leverStep.edgeLast := by
  obtain ⟨h0, h1⟩ := s.leverStep_samples
  refine BitVec.eq_of_getLsbD_eq fun n _ => ?_
  rw [State.leverStep_edgeLast_bit]
  split
  · next hn => rw [hn, h0]
  · split
    · next hn => rw [hn, h1]
    · rfl

/-- Settles O42: every trigger input is its own stored sample, so the second step's outputs are 0 and its state after the
trigger transition is the one it started in. -/
theorem secondLeverStepSeesNoEdge : Obligations.SecondLeverStepSeesNoEdge := by
  intro s
  obtain ⟨h0, h1⟩ := s.leverStep_samples
  have hedge : s.leverStep.triggerEdge = false := by
    rw [State.triggerEdge, h0, h1, Bool.and_not_self, Bool.and_not_self, Bool.or_false]
  refine ⟨_, _, exec_lvs s, exec_lvs _, hedge, ?_, ?_, ?_, ?_, s.leverStep_leverStep_edgeLast, fun hst => ?_⟩
  · rw [State.leverStep_tacc, hedge, Bool.false_and]
  · rw [State.leverStep_tign, hedge, Bool.false_and]
  · rw [State.leverStep_resEdge_bit, if_pos rfl, h0, Bool.and_not_self]
  · rw [State.leverStep_resEdge_bit, if_neg Nat.one_ne_zero, if_pos rfl, h1, Bool.and_not_self]
  · rw [State.leverStep_resTgt, hst]
    rfl

end Sys2Proof.Machine

/-! The order of binary64 values and one rounding (rule R12): a comparison with a rounded sum is one with the exact sum. -/

namespace Sys2Proof

theorem F64.key_eq_signed (x : F64) : F64.key x = F64.signed (F64.sign x) (x.toNat % 2 ^ 63) := rfl

/-- A rounding is no NaN: it is an infinity where it overflows. -/
theorem F64.IsRounding.isNaN {x : F64} {z : Int} {den : Nat} (h : F64.IsRounding x z den) : F64.isNaN x = false := by
  have hle := F64.round_le_infBits z.natAbs den
  rw [← h.bits] at hle
  have hinf : F64.infBits = 2047 * 2 ^ 52 := rfl
  by_cases hexpo : F64.expo x = 2047
  · have hfrac : F64.frac x = 0 := by
      unfold F64.expo at hexpo
      unfold F64.frac
      omega
    simp [F64.isNaN, hfrac]
  · simp [F64.isNaN, hexpo]

/-- Rounding to binary64 does not cross a binary64 value. -/
theorem F64.IsRounding.key_bounds {x y : F64} {z : Int} (h : F64.IsRounding x z 1) (hy : F64.isFinite y = true) :
    (z ≤ F64.units y → F64.key x ≤ F64.key y) ∧ (F64.units y ≤ z → F64.key y ≤ F64.key x) := by
  have hround := F64.round_le z.natAbs _ (F64.bits_lt hy)
  have hround' := F64.le_round z.natAbs _ (F64.bits_lt hy)
  have hzero := F64.unitsOf_eq_zero_iff (y.toNat % 2 ^ 63)
  have hbits := h.bits
  obtain ⟨neg, hx, hz⟩ := h
  have hsign : F64.sign x = neg := by rw [hx, F64.sign_pack _ _ (F64.round_lt_two_pow _ _)]
  rw [F64.key_eq_signed, F64.key_eq_signed, F64.units_eq_signed, F64.mag, hsign, hbits]
  unfold F64.signed at *
  generalize F64.round z.natAbs 1 = r at *
  generalize F64.unitsOf (y.toNat % 2 ^ 63) = q at *
  generalize y.toNat % 2 ^ 63 = p at *
  cases neg <;> cases F64.sign y <;> simp only [if_true, if_false, Bool.false_eq_true] at hz ⊢ <;> omega

/-- Finite values are ordered as their exact values are. -/
theorem F64.key_le_key_iff (x y : F64) : F64.key x ≤ F64.key y ↔ F64.units x ≤ F64.units y := by
  have hmono := F64.unitsOf_strictMono.le_iff_le (a := x.toNat % 2 ^ 63) (b := y.toNat % 2 ^ 63)
  have hmono' := F64.unitsOf_strictMono.le_iff_le (a := y.toNat % 2 ^ 63) (b := x.toNat % 2 ^ 63)
  have hzero := F64.unitsOf_eq_zero_iff (x.toNat % 2 ^ 63)
  have hzero' := F64.unitsOf_eq_zero_iff (y.toNat % 2 ^ 63)
  rw [F64.key_eq_signed, F64.key_eq_signed, F64.units_eq_signed, F64.units_eq_signed, F64.mag, F64.mag]
  unfold F64.signed
  generalize F64.unitsOf (x.toNat % 2 ^ 63) = q at *
  generalize F64.unitsOf (y.toNat % 2 ^ 63) = q' at *
  generalize x.toNat % 2 ^ 63 = p at *
  generalize y.toNat % 2 ^ 63 = p' at *
  cases F64.sign x <;> cases F64.sign y <;> simp only [if_true, if_false, Bool.false_eq_true] <;> omega

theorem F64.units_lt_of_lt {x y : F64} (h : F64.lt x y = true) : F64.units x < F64.units y := by
  have hkey : F64.key x < F64.key y := by
    simp only [F64.lt, Bool.and_eq_true, decide_eq_true_eq] at h
    exact h.2
  rwa [← not_le, F64.key_le_key_iff, not_le] at hkey

section
variable {x y : F64} {z : Int} (h : F64.IsRounding x z 1) (hy : F64.isFinite y = true)
include h hy

/-- A finite value that is not at or above a rounding is below the exact value. -/
theorem F64.units_lt_of_not_ge (hge : F64.ge y x = false) : F64.units y < z := by
  obtain ⟨hle, _⟩ := h.key_bounds hy
  by_contra hz
  exact absurd (F64.ge_eq_true.2 ⟨F64.isNaN_of_isFinite hy, h.isNaN, hle (not_lt.1 hz)⟩) (by simp [hge])

/-- A finite value that is not at or below a rounding is above the exact value. -/
theorem F64.lt_units_of_not_le (hle : F64.le y x = false) : z < F64.units y := by
  obtain ⟨_, hge⟩ := h.key_bounds hy
  by_contra hz
  exact absurd (F64.le_eq_true.2 ⟨F64.isNaN_of_isFinite hy, h.isNaN, hge (not_lt.1 hz)⟩) (by simp [hle])

end

/-! ### Values and their units -/

theorem F64.value_lt_value_iff (x y : F64) : F64.value x < F64.value y ↔ F64.units x < F64.units y := by
  have hpos : (0 : Rat) < 2 ^ 1074 := pow_pos (by decide) 1074
  rw [F64.value, F64.value, div_lt_div_iff_of_pos_right hpos, Int.cast_lt]

theorem F64.abs_value_sub_le_iff (x y w : F64) :
    |F64.value x - F64.value y| ≤ F64.value w ↔ |F64.units x - F64.units y| ≤ F64.units w := by
  have hpos : (0 : Rat) < 2 ^ 1074 := pow_pos (by decide) 1074
  rw [F64.value, F64.value, F64.value, ← sub_div, abs_div, abs_of_pos hpos, div_le_div_iff_of_pos_right hpos]
  exact_mod_cast Iff.rfl

end Sys2Proof

/-! The calibration of rule R207: a band wider than the largest change of one control cycle. -/

namespace Sys2Proof.Machine

section

variable {c : Config} {largest pos p : F64} (hl : Config.legal c = true) (hband : bandExceedsStep c largest = true)
  (hpos : F64.isFinite pos = true) (hstep : |F64.value p - F64.value pos| ≤ F64.value largest)
include hl hband hpos hstep

/-- From below the extend threshold one change does not reach LMAX. -/
theorem value_lt_lmax_of_calibrated (hshort : extendDone c pos = false) : F64.value p < F64.value c.lmax := by
  obtain ⟨_, _, _, _, _, _, _, hlmax, _, _, heps, _⟩ := (Config.legal_iff c).1 hl
  have hbelow := F64.units_lt_of_not_ge (F64.sub_isRounding hlmax heps) hpos hshort
  have hwide := F64.units_lt_of_lt hband
  rw [F64.abs_value_sub_le_iff, abs_le] at hstep
  rw [F64.value_lt_value_iff]
  omega

/-- From above the retract threshold one change does not reach LMIN. -/
theorem lmin_lt_value_of_calibrated (hshort : retractDone c pos = false) : F64.value c.lmin < F64.value p := by
  obtain ⟨_, _, _, _, _, _, hlmin, _, _, _, heps, _⟩ := (Config.legal_iff c).1 hl
  have habove := F64.lt_units_of_not_le (F64.add_isRounding hlmin heps) hpos hshort
  have hwide := F64.units_lt_of_lt hband
  rw [F64.abs_value_sub_le_iff, abs_le] at hstep
  rw [F64.value_lt_value_iff]
  omega

end

/-- The lever moves in CYC as in LVS (rule R171). -/
theorem State.lever_of_exec_cyc {s t : State} (h : exec .cyc s = .next t) :
    t.status.lever = afterPosition s.cfg (afterTrigger s.status.lever s.triggerEdge) s.argPos := by
  rw [exec_cyc] at h
  rw [← Host.Outcome.next.inj h, State.leverStep_lever_axisStep, State.leverStep_lever_axisStep, State.leverStep_lever]

/-- The line `cycle`: the position transition, at the position it writes, of the state after a trigger transition (rules
R90, R134, R135). -/
theorem runs_cycle_lever (s : State) (a b : Word) (va vb t0 t1 aux : Bool) (p : F64) (hl : Config.legal s.cfg = true) :
    ∃ t trig, Runs 5 (s.withPending (AsmLine.cycle a b va vb t0 t1 aux p).expand) t ∧
      t.status.lever = afterPosition s.cfg (afterTrigger s.status.lever trig) p := by
  obtain ⟨t, hrun, hcyc⟩ := cycleLineRunsOneCycle (s.withPending []) a b va vb t0 t1 aux p hl rfl
  exact ⟨t, _, hrun, State.lever_of_exec_cyc hcyc⟩

/-- Settles O59: the trigger transition leaves a moving lever alone, and the position transition ends the stroke exactly
where the threshold is reached. -/
theorem calibratedBandCatchesEveryStroke : Obligations.CalibratedBandCatchesEveryStroke := by
  intro s largest a b va vb t0 t1 aux p hl _ hband hpos _ hstep
  obtain ⟨t, trig, hrun, hlever⟩ := runs_cycle_lever s a b va vb t0 t1 aux p hl
  refine ⟨t, hrun, fun hst hshort => ?_, fun hst hshort => ?_⟩ <;>
    rw [hst, afterTrigger_of_ne_idle (by decide)] at hlever
  · cases hdone : extendDone s.cfg p with
    | false => exact .inl ⟨by rw [hlever, afterPosition_extending_of_short hdone], rfl⟩
    | true =>
      exact .inr ⟨by rw [hlever, afterPosition, hdone, if_pos rfl], rfl,
        value_lt_lmax_of_calibrated hl hband hpos hstep hshort⟩
  · cases hdone : retractDone s.cfg p with
    | false => exact .inl ⟨by rw [hlever, afterPosition_retracting_of_short hdone], rfl⟩
    | true =>
      exact .inr ⟨by rw [hlever, afterPosition, hdone, if_pos rfl], rfl,
        lmin_lt_value_of_calibrated hl hband hpos hstep hshort⟩

end Sys2Proof.Machine

/-! Result consumption (rule R206): what the host has read since the last sample, held against the two reads it still
owes, is the invariant of a run that keeps the duty. -/

namespace Sys2Proof.Machine

/-! ### Runs, one event at a time -/

theorem runs_complete (es : List Event) :
    ∀ s : State, Config.legal s.cfg = true → ∃ t, Runs es.length (s.withPending es) t := by
  induction es with
  | nil => exact fun s _ => ⟨_, rfl⟩
  | cons e es ih =>
    intro s hl
    obtain ⟨t, h⟩ := s.happen_completes e hl
    obtain ⟨u, hrun⟩ := ih t (by rw [State.happen_cfg h, hl])
    exact ⟨u, runs_cons hl h hrun⟩

theorem stepped_of_happen {s t : State} {e : Event} (hl : Config.legal s.cfg = true) (h : s.happen e = .next t)
    (es : List Event) : (s.withPending (e :: es)).stepped = t.withPending es := by
  rw [State.stepped, step_withPending_cons s e es hl, State.happen_withPending h es]

/-! ### The two results of an AxisTransform -/

/-- The UNAV flag of an AxisTransform (rule R26). -/
def State.unav (s : State) : AxisInst → Bool
  | .forward => s.status.unavF
  | .lateral => s.status.unavL

theorem State.distance_eq (s : State) (i : AxisInst) : s.distance i = if s.unav i then none else some (s.res i) := by
  cases i <;> rfl

/-- The UNAV bit of the word STATUS reads as (rules R25, R26). -/
theorem State.toWord_unavBit (s : State) (i : AxisInst) : s.status.toWord.getLsbD (unavBit i) = s.unav i := by
  cases i <;> simp only [Status.toWord, unavBit, State.unav, BitVec.getLsbD_append] <;> simp

/-- The register RES_i stands at. -/
def resultReg : AxisInst → RegName
  | .forward => .resF
  | .lateral => .resL

theorem resultReg_offset (i : AxisInst) : (resultReg i).offset = resultOffset i := by cases i <;> rfl

theorem State.readReg_resultReg (s : State) (i : AxisInst) : s.readReg (resultReg i) = s.res i := by cases i <;> rfl

/-- The results of an AxisTransform change only by a sample of it or a reset. -/
theorem EventLeaves.results {s t : State} {e : Event} {i : AxisInst} (h : EventLeaves s e t) (hs : e.samples i = false)
    (hn : e.isReset = false) : t.res i = s.res i ∧ t.unav i = s.unav i := by
  have hother (j : AxisInst) (hj : j ≠ i) : (s.axisStep j).res i = s.res i ∧ (s.axisStep j).unav i = s.unav i := by
    cases i <;> cases j
    · exact absurd rfl hj
    · exact ⟨s.axisStep_lateral_resF, by rw [State.unav, State.axisStep_status]; rfl⟩
    · exact ⟨s.axisStep_forward_resL, by rw [State.unav, State.axisStep_status]; rfl⟩
    · exact absurd rfl hj
  cases h with
  | reset h => rw [h] at hn; cases hn
  | axs j _ hc => exact hother j (by rintro rfl; simp [Event.samples, hc] at hs)
  | axs2 _ hc | cyc _ hc => simp [Event.samples, hc] at hs
  | answered a v | accessError a v => cases i <;> simp [State.res, State.unav]
  | _ => cases i <;> exact ⟨rfl, rfl⟩

theorem Event.eq_read_of_hostReads {e : Event} {off : BitVec 8} (h : e.hostReads off = true) :
    e = .access ⟨.host, off, 8, .read⟩ := by
  cases e with
  | resetInput => cases h
  | access a =>
    obtain ⟨ag, o, w, op⟩ := a
    cases op with
    | write v => cases h
    | read =>
      simp only [Event.hostReads, Bool.and_eq_true, beq_iff_eq] at h
      obtain ⟨⟨rfl, rfl⟩, rfl⟩ := h
      rfl

/-- What the host's read of a register returns. -/
theorem State.lastReply_of_hostReads {s t : State} {e : Event} {r : RegName} (h : s.happen e = .next t)
    (he : e.hostReads r.offset = true) : t.lastReply = some (s.readReg r) := by
  obtain rfl := Event.eq_read_of_hostReads he
  cases (s.happen_read .host r).symm.trans h
  rfl

/-! ### The distances computed and taken, one event at a time -/

/-- What the host holds of a register after event e, which left t: what it has just read there, or what it held before. -/
def heldAfter (e : Event) (t : State) (off : BitVec 8) (held : Option Word) : Option Word :=
  if e.hostReads off then t.lastReply else held

section

variable {s : State} {e : Event} {i : AxisInst} (hnext : s.nextEvent = some e)
include hnext

theorem distancesComputed_of_sample (n : Nat) (hs : e.samples i = true) :
    distancesComputed i (n + 1) s = s.stepped.distance i :: distancesComputed i n s.stepped := by
  rw [distancesComputed, hnext]
  exact if_pos hs

theorem distancesComputed_of_other (n : Nat) (hs : e.samples i = false) :
    distancesComputed i (n + 1) s = distancesComputed i n s.stepped := by
  rw [distancesComputed, hnext]
  exact if_neg (by simp [hs])

theorem distancesTaken_of_sample (n : Nat) (taking : Option (Option Word × Option Word)) (hs : e.samples i = true) :
    distancesTaken i (n + 1) taking s = distancesTaken i n (some (none, none)) s.stepped := by
  rw [distancesTaken, hnext]
  exact if_pos hs

theorem distancesTaken_of_idle (n : Nat) (hs : e.samples i = false) :
    distancesTaken i (n + 1) none s = distancesTaken i n none s.stepped := by
  rw [distancesTaken, hnext]
  exact if_neg (by simp [hs])

variable {result status : Option Word}

/-- The host has both values: it takes a distance. -/
theorem distancesTaken_of_both (n : Nat) (hs : e.samples i = false) {r v : Word}
    (hr : heldAfter e s.stepped (resultOffset i) result = some r) (hv : heldAfter e s.stepped 0x08#8 status = some v) :
    distancesTaken i (n + 1) (some (result, status)) s =
      (if v.getLsbD (unavBit i) then none else some r) :: distancesTaken i n none s.stepped := by
  unfold heldAfter at hr hv
  rw [distancesTaken, hnext]
  simp [hs, hr, hv]

/-- The host lacks a value: it goes on waiting. -/
theorem distancesTaken_of_waiting (n : Nat) (hs : e.samples i = false)
    (hlacks : heldAfter e s.stepped (resultOffset i) result = none ∨ heldAfter e s.stepped 0x08#8 status = none) :
    distancesTaken i (n + 1) (some (result, status)) s =
      distancesTaken i n
        (some (heldAfter e s.stepped (resultOffset i) result, heldAfter e s.stepped 0x08#8 status)) s.stepped := by
  rw [distancesTaken, hnext]
  rcases hlacks with hr | hv
  · rw [hr]
    unfold heldAfter at *
    cases hv : (if e.hostReads 0x08#8 then s.stepped.lastReply else status) <;> simp [hs, hr, hv]
  · rw [hv]
    unfold heldAfter at *
    cases hr : (if e.hostReads (resultOffset i) then s.stepped.lastReply else result) <;> simp [hs, hr, hv]

end

/-! ### The invariant of a run that keeps the duty -/

/-- What the host holds of AxisTransform i while it owes these reads: nothing where it owes none; and else of each of the two
registers the value of its latest read, which still gives the result of i, or nothing where it owes that read. -/
def State.Awaits (s : State) (i : AxisInst) (owesResult owesStatus : Bool) : Option (Option Word × Option Word) → Prop
  | none => (owesResult || owesStatus) = false
  | some (result, status) =>
    (owesResult || owesStatus) = true ∧ result = (if owesResult then none else some (s.res i)) ∧
      status.map (fun v => v.getLsbD (unavBit i)) = if owesStatus then none else some (s.unav i)

/-- The distance the host is still to take. -/
def State.owed (s : State) (i : AxisInst) (owesResult owesStatus : Bool) : List (Option F64) :=
  if owesResult || owesStatus then [s.distance i] else []

section

variable {s t : State} {e : Event} {i : AxisInst} (h : s.happen e = .next t) (hs : e.samples i = false)
  (hn : e.isReset = false)
include h hs hn

theorem heldAfter_result {owes : Bool} {result : Option Word} (hr : result = if owes then none else some (s.res i)) :
    heldAfter e t (resultOffset i) result =
      if owes && !e.hostReads (resultOffset i) then none else some (t.res i) := by
  obtain ⟨hres, _⟩ := (State.happen_leaves h).results hs hn
  unfold heldAfter
  cases hread : e.hostReads (resultOffset i) with
  | false => simp [hr, hres]
  | true =>
    rw [← resultReg_offset] at hread
    simp [State.lastReply_of_hostReads h hread, State.readReg_resultReg, hres]

theorem heldAfter_status {owes : Bool} {status : Option Word}
    (hv : status.map (fun v => v.getLsbD (unavBit i)) = if owes then none else some (s.unav i)) :
    (heldAfter e t 0x08#8 status).map (fun v => v.getLsbD (unavBit i)) =
      if owes && !e.hostReads 0x08#8 then none else some (t.unav i) := by
  obtain ⟨_, hunav⟩ := (State.happen_leaves h).results hs hn
  unfold heldAfter
  cases hread : e.hostReads 0x08#8 with
  | false => simp [hv, hunav]
  | true =>
    have hreply := State.lastReply_of_hostReads (r := .status) h hread
    have hbit : (s.readReg .status).getLsbD (unavBit i) = s.unav i := s.toWord_unavBit i
    simp [hreply, hbit, hunav]

/-- An event that is neither a sample nor a reset: the host takes the distance it waits for, or goes on waiting. -/
theorem State.Awaits.happen {owesResult owesStatus : Bool} {taking : Option (Option Word × Option Word)}
    (ha : s.Awaits i owesResult owesStatus taking) (hl : Config.legal s.cfg = true) (es : List Event) (n : Nat) :
    ∃ taking' took,
      t.Awaits i (owesResult && !e.hostReads (resultOffset i)) (owesStatus && !e.hostReads 0x08#8) taking' ∧
      s.owed i owesResult owesStatus =
        took ++ t.owed i (owesResult && !e.hostReads (resultOffset i)) (owesStatus && !e.hostReads 0x08#8) ∧
      distancesTaken i (n + 1) taking (s.withPending (e :: es)) =
        took ++ distancesTaken i n taking' (t.withPending es) := by
  have hstepped := stepped_of_happen hl h es
  have hdistance : t.distance i = s.distance i := by
    obtain ⟨hres, hunav⟩ := (State.happen_leaves h).results hs hn
    rw [State.distance_eq, State.distance_eq, hres, hunav]
  cases taking with
  | none =>
    obtain ⟨rfl, rfl⟩ := Bool.or_eq_false_iff.1 ha
    exact ⟨none, [], rfl, rfl, by rw [distancesTaken_of_idle rfl n hs, hstepped]; rfl⟩
  | some held =>
    obtain ⟨result, status⟩ := held
    obtain ⟨howes, hresult, hstatus⟩ := ha
    have hr := heldAfter_result h hs hn hresult
    have hv := heldAfter_status h hs hn hstatus
    generalize (owesResult && !e.hostReads (resultOffset i)) = owesResult' at *
    generalize (owesStatus && !e.hostReads 0x08#8) = owesStatus' at *
    have howed : s.owed i owesResult owesStatus = [t.distance i] := by rw [State.owed, if_pos howes, hdistance]
    cases howes' : owesResult' || owesStatus' with
    | true =>
      have hlacks : heldAfter e t (resultOffset i) result = none ∨ heldAfter e t 0x08#8 status = none := by
        rcases Bool.or_eq_true_iff.1 howes' with rfl | rfl
        · exact .inl hr
        · exact .inr (Option.map_eq_none_iff.1 hv)
      refine ⟨some (heldAfter e t (resultOffset i) result, heldAfter e t 0x08#8 status), [], ⟨howes', hr, hv⟩, ?_, ?_⟩
      · rw [howed, State.owed, if_pos howes']
        rfl
      · rw [distancesTaken_of_waiting (e := e) rfl n hs (by rw [hstepped]; exact hlacks), hstepped]
        rfl
    | false =>
      obtain ⟨rfl, rfl⟩ := Bool.or_eq_false_iff.1 howes'
      obtain ⟨v, hv, hbit⟩ := Option.map_eq_some_iff.1 hv
      refine ⟨none, [t.distance i], rfl, by rw [howed]; rfl, ?_⟩
      rw [distancesTaken_of_both (e := e) rfl n hs (by rw [hstepped]; exact hr) (by rw [hstepped]; exact hv), hstepped,
        hbit, State.distance_eq]
      rfl

end

theorem resultsConsumed_cons {i : AxisInst} {owesResult owesStatus : Bool} {e : Event} {es : List Event}
    (h : resultsConsumed i owesResult owesStatus (e :: es) = true) :
    (e.samples i = true ∧ (owesResult || owesStatus) = false ∧ resultsConsumed i true true es = true) ∨
      (e.samples i = false ∧ e.isReset = true ∧ (owesResult || owesStatus) = false ∧
        resultsConsumed i false false es = true) ∨
      (e.samples i = false ∧ e.isReset = false ∧
        resultsConsumed i (owesResult && !e.hostReads (resultOffset i)) (owesStatus && !e.hostReads 0x08#8) es = true) := by
  rw [resultsConsumed] at h
  cases hs : e.samples i <;> cases hn : e.isReset <;> simp_all

/-- The host takes the distance it is owed and then every distance computed. -/
theorem distancesTaken_eq (i : AxisInst) (es : List Event) :
    ∀ (owesResult owesStatus : Bool) (taking : Option (Option Word × Option Word)) (s : State),
      Config.legal s.cfg = true → resultsConsumed i owesResult owesStatus es = true →
      s.Awaits i owesResult owesStatus taking →
      distancesTaken i es.length taking (s.withPending es) =
        s.owed i owesResult owesStatus ++ distancesComputed i es.length (s.withPending es) := by
  induction es with
  | nil =>
    intro owesResult owesStatus taking s _ hd _
    have hnone : owesResult = false ∧ owesStatus = false := by simpa [resultsConsumed] using hd
    obtain ⟨rfl, rfl⟩ := hnone
    rfl
  | cons e es ih =>
    intro owesResult owesStatus taking s hl hd ha
    obtain ⟨t, h⟩ := s.happen_completes e hl
    have hstepped := stepped_of_happen hl h es
    have hlt : Config.legal t.cfg = true := by rw [State.happen_cfg h, hl]
    rcases resultsConsumed_cons hd with ⟨hs, howes, hrest⟩ | ⟨hs, hn, howes, hrest⟩ | ⟨hs, hn, hrest⟩
    · rw [List.length_cons, distancesTaken_of_sample (e := e) rfl _ _ hs, distancesComputed_of_sample (e := e) rfl _ hs,
        hstepped, ih true true (some (none, none)) t hlt hrest ⟨rfl, rfl, rfl⟩, State.owed, State.owed, howes]
      rfl
    · obtain ⟨rfl, rfl⟩ := Bool.or_eq_false_iff.1 howes
      cases taking with
      | some held => cases ha.1
      | none =>
        rw [List.length_cons, distancesTaken_of_idle (e := e) rfl _ hs, distancesComputed_of_other (e := e) rfl _ hs,
          hstepped, ih false false none t hlt hrest rfl]
        rfl
    · obtain ⟨taking', took, ha', howed, htaken⟩ := ha.happen h hs hn hl es es.length
      rw [List.length_cons, htaken, distancesComputed_of_other (e := e) rfl _ hs, hstepped, howed,
        ih _ _ taking' t hlt hrest ha', List.append_assoc]

/-- Settles O58: the host starts with no read owed. -/
theorem consumedResultsLoseNoDistance : Obligations.ConsumedResultsLoseNoDistance := fun s i es hl hd =>
  ⟨runs_complete es s hl, distancesTaken_eq i es false false none s hl hd rfl⟩

end Sys2Proof.Machine

/-! One writer decides the core (rule R210): an access that is no write changes nothing of the registers but the record of
access errors, and that record decides nothing else. -/

namespace Sys2Proof.Machine

/-! ### The registers without the record of access errors -/

/-- What the writes decide: the registers without the record of access errors. -/
def State.decided (s : State) : State := s.window.withoutAccessErrors

@[simp] theorem State.decided_decided (s : State) : s.decided.decided = s.decided := rfl

theorem State.decided_answer (s : State) (a : Access) (v : Word) : (s.answer a v).decided = s.decided := by
  unfold State.answer
  split <;> rfl

/-- An access error is recorded in ACCERR and ECODE alone (rule R181). -/
theorem State.decided_accessError (s : State) (a : Access) {c : ErrorCode} (hc : c.isIllegalCommand = false) :
    (s.accessError a c).decided = s.decided := by
  rw [State.accessError, State.decided_answer]
  unfold State.raise Status.record State.decided State.window State.withoutAccessErrors
  simp [hc]

theorem State.axisStep_decided (s : State) (i : AxisInst) : s.decided.axisStep i = (s.axisStep i).decided := by
  have hsame : s.decided.sampleValid = s.sampleValid := rfl
  cases hv : s.sampleValid <;> cases i
  · rw [State.axisStep_forward_of_failed _ (hsame.trans hv), State.axisStep_forward_of_failed s hv]; rfl
  · rw [State.axisStep_lateral_of_failed _ (hsame.trans hv), State.axisStep_lateral_of_failed s hv]; rfl
  · rw [State.axisStep_forward_of_valid _ (hsame.trans hv), State.axisStep_forward_of_valid s hv]; rfl
  · rw [State.axisStep_lateral_of_valid _ (hsame.trans hv), State.axisStep_lateral_of_valid s hv]; rfl

theorem State.leverStep_decided (s : State) : s.decided.leverStep = s.leverStep.decided := rfl

/-- No command reads the record of access errors, and one that fails adds only its own code to it. -/
theorem exec_decided {i : Instr} {s t : State} (h : exec i s = .next t) :
    ∃ t', exec i s.decided = .next t' ∧ t'.decided = t.decided := by
  cases i with
  | nop => cases h; exact ⟨_, rfl, rfl⟩
  | axs ax => cases h; exact ⟨_, exec_axs ax _, by rw [State.axisStep_decided, State.decided_decided]⟩
  | axs2 =>
    cases h
    exact ⟨_, exec_axs2 _, by rw [State.axisStep_decided, State.axisStep_decided, State.decided_decided]⟩
  | edg idx r =>
    by_cases hidx : idx.toNat < 2 ∨ s.cfg.nedge ≤ idx.toNat
    · cases (if_pos hidx).symm.trans h
      exact ⟨_, if_pos hidx, rfl⟩
    · cases (if_neg hidx).symm.trans h
      exact ⟨_, if_neg hidx, rfl⟩
  | lvs => cases h; exact ⟨_, rfl, rfl⟩
  | cyc =>
    cases h
    exact ⟨_, exec_cyc _, by
      rw [State.axisStep_decided, State.axisStep_decided, State.leverStep_decided, State.decided_decided]⟩
  | rst => cases h; exact ⟨_, rfl, rfl⟩

theorem State.writeReg_decided {s t : State} {r : RegName} {v : Word} (h : s.writeReg r v = .next t) :
    ∃ t', s.decided.writeReg r v = .next t' ∧ t'.decided = t.decided := by
  cases r with
  | cmd =>
    change s.command v = .next t at h
    change ∃ t', s.decided.command v = .next t' ∧ _
    unfold State.command at *
    cases hd : decodeCommand v with
    | ok i =>
      rw [hd] at h
      exact exec_decided h
    | error d =>
      rw [hd] at h
      cases h
      exact ⟨_, rfl, rfl⟩
  | _ => cases h; exact ⟨_, rfl, rfl⟩

/-- What is decided after an event depends on what was decided before it, and on nothing else. -/
theorem State.happen_decided {s t : State} {e : Event} (h : s.happen e = .next t) :
    ∃ t', s.decided.happen e = .next t' ∧ t'.decided = t.decided := by
  cases e with
  | resetInput => cases h; exact ⟨_, rfl, rfl⟩
  | access a =>
    change s.perform a = .next t at h
    change ∃ t', s.decided.perform a = .next t' ∧ _
    cases hw : a.wellFormed with
    | false =>
      rw [State.perform_of_malformed s hw] at h
      cases h
      exact ⟨_, State.perform_of_malformed _ hw, by
          rw [State.decided_accessError _ _ rfl, State.decided_accessError _ _ rfl, State.decided_decided]⟩
    | true =>
      cases hr : RegName.at a.off with
      | none =>
        rw [State.perform_of_reserved s hw hr] at h
        cases h
        exact ⟨_, State.perform_of_reserved _ hw hr, by
          rw [State.decided_accessError _ _ rfl, State.decided_accessError _ _ rfl, State.decided_decided]⟩
      | some r =>
        cases ho : a.op with
        | read =>
          rw [State.perform_of_read s hw hr ho] at h
          cases h
          exact ⟨_, State.perform_of_read _ hw hr ho, by simp only [State.decided_answer, State.decided_decided]⟩
        | write v =>
          rw [State.perform_of_write s hw hr ho] at h
          rw [State.perform_of_write _ hw hr ho]
          exact State.writeReg_decided h

/-- States that agree in what is decided agree in it after the same event. -/
theorem decided_eq_of_happen {s t u v : State} {e : Event} (hsame : s.decided = u.decided) (h : s.happen e = .next t)
    (h' : u.happen e = .next v) : t.decided = v.decided := by
  obtain ⟨t', ht, hdecided⟩ := State.happen_decided h
  obtain ⟨v', hv, hdecided'⟩ := State.happen_decided h'
  rw [hsame] at ht
  cases ht.symm.trans hv
  rw [← hdecided, hdecided']

/-- A read decides nothing, whether it raises an error or not. -/
theorem State.perform_read_decided {s t : State} {a : Access} (ho : a.op = .read) (h : s.perform a = .next t) :
    t.decided = s.decided := by
  rcases s.perform_cases a with ⟨_, h'⟩ | ⟨_, _, h'⟩ | ⟨_, _, _, _, h'⟩ | ⟨_, _, _, _, hw, _⟩
  · cases h'.symm.trans h
    exact s.decided_accessError a rfl
  · cases h'.symm.trans h
    exact s.decided_accessError a rfl
  · cases h'.symm.trans h
    exact s.decided_answer a _
  · cases ho.symm.trans hw

/-! ### The runs with and without the reporter (rule R68) -/

theorem singleWriter_cons {e : Event} {es : List Event} (h : singleWriter (e :: es) = true) :
    (e.byReporter = true → ∃ a, e = .access a ∧ a.op = .read) ∧ singleWriter es = true := by
  simp only [singleWriter, List.all_cons, Bool.and_eq_true] at h
  obtain ⟨he, hes⟩ := h
  refine ⟨fun hrep => ?_, hes⟩
  cases e with
  | resetInput => cases hrep
  | access a =>
    obtain ⟨ag, off, w, op⟩ := a
    cases op with
    | read => exact ⟨_, rfl, rfl⟩
    | write v => simp_all [Event.byReporter]

/-- A single writer's run and the same run without the reporter, from states that agree in what is decided. -/
theorem runs_of_singleWriter (es : List Event) :
    ∀ s u : State, Config.legal s.cfg = true → s.decided = u.decided → singleWriter es = true →
      ∃ t t', Runs es.length (s.withPending es) t ∧
        Runs (withoutReporter es).length (u.withPending (withoutReporter es)) t' ∧ t.decided = t'.decided := by
  induction es with
  | nil => exact fun s u _ hsame _ => ⟨_, _, rfl, rfl, hsame⟩
  | cons e es ih =>
    intro s u hl hsame hw
    obtain ⟨hread, hes⟩ := singleWriter_cons hw
    have hcfg : u.cfg = s.cfg := congrArg (·.cfg) hsame.symm
    obtain ⟨s', h⟩ := s.happen_completes e hl
    have hl' : Config.legal s'.cfg = true := by rw [State.happen_cfg h, hl]
    cases hrep : e.byReporter with
    | true =>
      have hskip : withoutReporter (e :: es) = withoutReporter es := List.filter_cons_of_neg (by simp [hrep])
      obtain ⟨a, rfl, ho⟩ := hread hrep
      obtain ⟨t, t', hrun, hrun', ht⟩ := ih s' u hl' ((State.perform_read_decided ho h).trans hsame) hes
      rw [hskip]
      exact ⟨t, t', runs_cons hl h hrun, hrun', ht⟩
    | false =>
      have hkeep : withoutReporter (e :: es) = e :: withoutReporter es := List.filter_cons_of_pos (by simp [hrep])
      obtain ⟨u', h'⟩ := u.happen_completes e (by rw [hcfg, hl])
      obtain ⟨t, t', hrun, hrun', ht⟩ := ih s' u' hl' (decided_eq_of_happen hsame h h') hes
      rw [hkeep]
      exact ⟨t, t', runs_cons hl h hrun, runs_cons (by rw [hcfg, hl]) h' hrun', ht⟩

end Sys2Proof.Machine

/-! The lever over a control cycle with one lever step (rules R210 to R212): no other event touches the lever's part of the
registers, and the inputs are in place when the lever step comes. -/

namespace Sys2Proof.Machine

/-! ### The lever's part of the registers -/

/-- What the LeverSequencer reads and writes of the registers, beside the operands: its configuration, its flags, its
command, and the stored samples and the outputs of the trigger detectors 0 and 1 (rules R130, R137). -/
structure LeverPart where
  cfg : Config
  lever : LeverState
  cmdv : Bool
  tacc : Bool
  tign : Bool
  target : F64
  speed : BitVec 8
  samples : Bool × Bool
  outputs : Bool × Bool

def State.leverPart (s : State) : LeverPart where
  cfg := s.cfg
  lever := s.status.lever
  cmdv := s.status.cmdv
  tacc := s.status.tacc
  tign := s.status.tign
  target := s.resTgt
  speed := s.resSpd
  samples := (s.edgeLast.getLsbD 0, s.edgeLast.getLsbD 1)
  outputs := (s.resEdge.getLsbD 0, s.resEdge.getLsbD 1)

theorem State.actuatorCommand_eq_of_leverPart {s t : State} (h : s.leverPart = t.leverPart) :
    s.actuatorCommand = t.actuatorCommand := by
  simp only [State.leverPart, LeverPart.mk.injEq] at h
  simp only [State.actuatorCommand, h]

/-- A lever step on the same position and inputs depends on the lever's part alone (rule R137). -/
theorem State.leverPart_leverStep {s t : State} (h : s.leverPart = t.leverPart) (hpos : s.argPos = t.argPos)
    (hin : s.argIn = t.argIn) : s.leverStep.leverPart = t.leverStep.leverPart := by
  simp only [State.leverPart, LeverPart.mk.injEq, Prod.mk.injEq] at h
  obtain ⟨hcfg, hlever, _, _, _, _, _, ⟨h0, h1⟩, hr0, hr1⟩ := h
  have hedge : s.triggerEdge = t.triggerEdge := by simp only [State.triggerEdge, hin, h0, h1]
  have htrigger : s.trigger = t.trigger := hedge
  have haux : s.aux = t.aux := by rw [State.aux, hin, State.aux]
  simp only [State.leverPart, LeverPart.mk.injEq, Prod.mk.injEq]
  refine ⟨hcfg, ?_, rfl, ?_, ?_, ?_, ?_, ⟨?_, ?_⟩, ?_, ?_⟩
  · rw [State.leverStep_lever, State.leverStep_lever, hcfg, hlever, hedge, hpos]
  · rw [State.leverStep_tacc, State.leverStep_tacc, hedge, hlever]
  · rw [State.leverStep_tign, State.leverStep_tign, hedge, hlever]
  · rw [State.leverStep_resTgt, State.leverStep_resTgt, hcfg, hlever, htrigger, hpos]
  · rw [State.leverStep_resSpd, State.leverStep_resSpd, hcfg, hlever, htrigger, hpos, haux]
  · simp only [State.leverStep_edgeLast_bit, hin, h0]
  · simp only [State.leverStep_edgeLast_bit, hin, h1]
  · simp only [State.leverStep_resEdge_bit, hin, h0, h1, hr0]
  · simp only [State.leverStep_resEdge_bit, hin, h0, h1, hr1]

theorem State.leverPart_axisStep (s : State) (i : AxisInst) : (s.axisStep i).leverPart = s.leverPart := by
  unfold State.leverPart
  rw [State.axisStep_status]
  cases i <;> simp only [State.axisStep_cfg, State.axisStep_resTgt, State.axisStep_resSpd,
    State.axisStep_resEdge, State.axisStep_edgeLast]

/-- The detectors of EDG are not the lever's (rule R162). -/
theorem State.leverPart_edgeObserve (s : State) {n : Nat} (r : Bool) (hlo : 2 ≤ n) (hhi : n < 16) :
    (s.edgeObserve n r).leverPart = s.leverPart := by
  have hlast (k : Nat) (hk : k < 2) : (s.edgeObserve n r).edgeLast.getLsbD k = s.edgeLast.getLsbD k := by
    rw [State.edgeObserve_edgeLast_bit _ _ _ _ hhi, if_neg (by omega)]
  have hres (k : Nat) (hk : k < 2) : (s.edgeObserve n r).resEdge.getLsbD k = s.resEdge.getLsbD k := by
    rw [State.edgeObserve_resEdge_bit _ _ _ _ hhi, if_neg (by omega)]
  unfold State.leverPart
  rw [hlast 0 (by decide), hlast 1 (by decide), hres 0 (by decide), hres 1 (by decide)]
  rfl

/-! ### One event on the lever's part -/

/-- An event that makes a command run is that command. -/
theorem State.happen_of_commandOf (s : State) {e : Event} {i : Instr} (hc : e.commandOf = some i) :
    s.happen e = exec i s := by
  cases e with
  | resetInput => cases hc
  | access a =>
    obtain ⟨ag, off, w, op⟩ := a
    cases op with
    | read => cases hc
    | write v =>
      by_cases hcmd : w = 8 ∧ off = 0x00#8
      · obtain ⟨rfl, rfl⟩ := hcmd
        rw [Event.commandOf_write_cmd] at hc
        refine (s.happen_write ag .cmd v).trans ?_
        change s.command v = exec i s
        rw [State.command]
        cases hd : decodeCommand v with
        | error d => rw [hd] at hc; cases hc
        | ok j => rw [hd] at hc; cases hc; rfl
      · cases (if_neg hcmd).symm.trans hc

/-- EDG leaves the lever's part as it was, with a legal index and with an illegal one. -/
theorem State.leverPart_of_exec_edg {s t : State} {idx : BitVec 4} {r : Bool} (h : exec (.edg idx r) s = .next t) :
    t.leverPart = s.leverPart := by
  by_cases hidx : idx.toNat < 2 ∨ s.cfg.nedge ≤ idx.toNat
  · cases (if_pos hidx).symm.trans h
    rfl
  · cases (if_neg hidx).symm.trans h
    exact s.leverPart_edgeObserve r (by omega) idx.isLt

section

variable {s t : State} {e : Event} (h : s.happen e = .next t)
include h

theorem State.happen_leverPart (hn : e.isReset = false) (hls : e.isLeverStep = false) : t.leverPart = s.leverPart := by
  cases State.happen_leaves h with
  | reset hr => cases hr.symm.trans hn
  | edg idx r _ _ hc => exact State.leverPart_of_exec_edg ((s.happen_of_commandOf hc).symm.trans h)
  | lvs _ hc | cyc _ hc => simp [Event.isLeverStep, hc] at hls
  | axs i => exact s.leverPart_axisStep i
  | axs2 => rw [State.leverPart_axisStep, State.leverPart_axisStep]
  | answered | accessError => simp [State.leverPart]
  | argA | argB | argPos | argIn | illegalWord | nop | illegalIndex => rfl

theorem State.happen_leverStep (hls : e.isLeverStep = true) :
    t.leverPart = s.leverStep.leverPart ∧ t.argPos = s.argPos ∧ t.argIn = s.argIn := by
  have hc : e.commandOf = some .lvs ∨ e.commandOf = some .cyc := by simpa [Event.isLeverStep] using hls
  rcases hc with hc | hc <;> rw [s.happen_of_commandOf hc] at h
  · cases h
    exact ⟨rfl, rfl, rfl⟩
  · cases h
    refine ⟨State.leverPart_leverStep ?_ ?_ ?_, ?_, ?_⟩ <;> simp [State.leverPart_axisStep]

end

/-! ### The commands forwarded, and the premises, one event at a time -/

section

variable {s : State} {e : Event} (hnext : s.nextEvent = some e)
include hnext

theorem commandsForwarded_of_leverStep (n : Nat) (hls : e.isLeverStep = true) :
    commandsForwarded (n + 1) s = s.stepped.actuatorCommand.toList ++ commandsForwarded n s.stepped := by
  rw [commandsForwarded, hnext]
  exact if_pos hls

theorem commandsForwarded_of_other (n : Nat) (hls : e.isLeverStep = false) :
    commandsForwarded (n + 1) s = commandsForwarded n s.stepped := by
  rw [commandsForwarded, hnext]
  exact if_neg (by simp [hls])

end

theorem noReset_cons {e : Event} {es : List Event} (h : noReset (e :: es) = true) :
    e.isReset = false ∧ noReset es = true := by
  simpa [noReset] using h

theorem operandsBeforeUse_cons {sampled stepped : Bool} {e : Event} {es : List Event}
    (h : operandsBeforeUse sampled stepped (e :: es) = true) :
    (stepped = true → e.writesTo 0x20#8 = false ∧ e.writesTo 0x28#8 = false) ∧
      ∃ sampled', operandsBeforeUse sampled' (stepped || e.isLeverStep) es = true := by
  simp only [operandsBeforeUse, Bool.and_eq_true, Bool.not_eq_true'] at h
  obtain ⟨⟨_, hw⟩, hes⟩ := h
  refine ⟨?_, _, hes⟩
  rintro rfl
  simpa using hw

/-- The reporter of a single writer makes no lever step. -/
theorem filter_isLeverStep_withoutReporter {es : List Event} (h : singleWriter es = true) :
    (withoutReporter es).filter Event.isLeverStep = es.filter Event.isLeverStep := by
  induction es with
  | nil => rfl
  | cons e es ih =>
    obtain ⟨hread, hes⟩ := singleWriter_cons h
    cases hrep : e.byReporter with
    | false =>
      have hkeep : withoutReporter (e :: es) = e :: withoutReporter es := List.filter_cons_of_pos (by simp [hrep])
      rw [hkeep, List.filter_cons, List.filter_cons, ih hes]
    | true =>
      have hskip : withoutReporter (e :: es) = withoutReporter es := List.filter_cons_of_neg (by simp [hrep])
      obtain ⟨⟨ag, off, w, op⟩, rfl, rfl⟩ := hread hrep
      rw [hskip, ih hes]
      rfl

/-! ### The cycle -/

/-- Events without a lever step: nothing is forwarded and the lever's part stays; after a lever step the position and the
inputs stay as well. -/
theorem runs_of_no_leverStep (es : List Event) :
    ∀ s : State, Config.legal s.cfg = true → noReset es = true → es.filter Event.isLeverStep = [] →
      ∃ t, Runs es.length (s.withPending es) t ∧ t.leverPart = s.leverPart ∧
        commandsForwarded es.length (s.withPending es) = [] ∧
        ∀ sampled, operandsBeforeUse sampled true es = true → t.argPos = s.argPos ∧ t.argIn = s.argIn := by
  induction es with
  | nil => exact fun s _ _ _ => ⟨_, rfl, rfl, rfl, fun _ _ => ⟨rfl, rfl⟩⟩
  | cons e es ih =>
    intro s hl hreset hnone
    obtain ⟨hn, hreset'⟩ := noReset_cons hreset
    have hls : e.isLeverStep = false := by
      simpa using List.filter_eq_nil_iff.1 hnone e List.mem_cons_self
    rw [List.filter_cons_of_neg (by simp [hls])] at hnone
    obtain ⟨s', h⟩ := s.happen_completes e hl
    obtain ⟨t, hrun, hpart, hforward, hinputs⟩ := ih s' (by rw [State.happen_cfg h, hl]) hreset' hnone
    refine ⟨t, runs_cons hl h hrun, hpart.trans (State.happen_leverPart h hn hls), ?_, fun sampled huse => ?_⟩
    · rw [List.length_cons, commandsForwarded_of_other (e := e) rfl _ hls, stepped_of_happen hl h, hforward]
    · obtain ⟨hw, sampled', huse'⟩ := operandsBeforeUse_cons huse
      obtain ⟨hwPos, hwIn⟩ := hw rfl
      obtain ⟨_, _, hpos, hin⟩ := (State.happen_leaves h).operands hn
      obtain ⟨hpos', hin'⟩ := hinputs sampled' huse'
      exact ⟨hpos'.trans (hpos hwPos), hin'.trans (hin hwIn)⟩

/-- s with another position and other inputs. -/
def State.withInputs (s : State) (pos : F64) (inputs : BitVec 5) : State := { s with argPos := pos, argIn := inputs }

theorem State.leverPart_withInputs (s : State) (pos : F64) (inputs : BitVec 5) :
    (s.withInputs pos inputs).leverPart = s.leverPart := rfl

/-- Events with one lever step: it finds the lever's part as it was before them, and the position and the inputs as they
are after them. -/
theorem runs_of_one_leverStep (es : List Event) :
    ∀ (sampled : Bool) (s : State), Config.legal s.cfg = true → noReset es = true →
      (es.filter Event.isLeverStep).length = 1 → operandsBeforeUse sampled false es = true →
      ∃ t, Runs es.length (s.withPending es) t ∧
        t.leverPart = (s.withInputs t.argPos t.argIn).leverStep.leverPart ∧
        commandsForwarded es.length (s.withPending es) = t.actuatorCommand.toList := by
  induction es with
  | nil => exact fun _ _ _ _ hone _ => absurd hone (by decide)
  | cons e es ih =>
    intro sampled s hl hreset hone huse
    obtain ⟨hn, hreset'⟩ := noReset_cons hreset
    obtain ⟨_, sampled', huse'⟩ := operandsBeforeUse_cons huse
    obtain ⟨s', h⟩ := s.happen_completes e hl
    have hl' : Config.legal s'.cfg = true := by rw [State.happen_cfg h, hl]
    cases hls : e.isLeverStep with
    | true =>
      rw [List.filter_cons_of_pos hls, List.length_cons, Nat.add_eq_right, List.length_eq_zero_iff] at hone
      rw [hls] at huse'
      obtain ⟨hpart, hpos, hin⟩ := State.happen_leverStep h hls
      obtain ⟨t, hrun, hpart', hforward, hinputs⟩ := runs_of_no_leverStep es s' hl' hreset' hone
      obtain ⟨hpos', hin'⟩ := hinputs sampled' huse'
      refine ⟨t, runs_cons hl h hrun, ?_, ?_⟩
      · rw [hpart', hpart, hpos', hin', hpos, hin]
        rfl
      · rw [List.length_cons, commandsForwarded_of_leverStep (e := e) rfl _ hls, stepped_of_happen hl h, hforward,
          List.append_nil, State.actuatorCommand_eq_of_leverPart hpart']
        rfl
    | false =>
      rw [List.filter_cons_of_neg (by simp [hls])] at hone
      rw [hls] at huse'
      obtain ⟨t, hrun, hpart, hforward⟩ := ih sampled' s' hl' hreset' hone huse'
      have hsame : (s'.withInputs t.argPos t.argIn).leverPart = (s.withInputs t.argPos t.argIn).leverPart := by
        rw [State.leverPart_withInputs, State.leverPart_withInputs, State.happen_leverPart h hn hls]
      refine ⟨t, runs_cons hl h hrun, hpart.trans (State.leverPart_leverStep hsame rfl rfl), ?_⟩
      rw [List.length_cons, commandsForwarded_of_other (e := e) rfl _ hls, stepped_of_happen hl h, hforward]

/-- Settles O60: without the reporter the same is decided; and a cycle's lever step is one LVS of the state before it. -/
theorem singleWriterCycleIsOneLeverStep : Obligations.SingleWriterCycleIsOneLeverStep := by
  refine ⟨fun s es hl hw => runs_of_singleWriter es s s hl rfl hw, fun s cycle hl hw hsample hone hreset => ?_⟩
  obtain ⟨huse, _⟩ := Bool.and_eq_true_iff.1 hsample
  have hlever := filter_isLeverStep_withoutReporter hw
  have hany : (withoutReporter cycle).any Event.isLeverStep = true ↔ cycle.filter Event.isLeverStep ≠ [] := by
    rw [← hlever, ne_eq, List.filter_eq_nil_iff, List.any_eq_true]
    simp
  have hle : (cycle.filter Event.isLeverStep).length ≤ 1 := by simpa [oneLeverStep, hlever] using hone
  rcases Nat.le_one_iff_eq_zero_or_eq_one.1 hle with hlen | hlen
  · have hnone := List.length_eq_zero_iff.1 hlen
    obtain ⟨t, hrun, hpart, hforward, _⟩ := runs_of_no_leverStep cycle s hl hreset hnone
    exact ⟨t, _, hrun, exec_lvs _, fun hsome => absurd hnone (hany.1 hsome),
      fun _ => ⟨hforward, State.actuatorCommand_eq_of_leverPart hpart, congrArg (·.lever) hpart⟩⟩
  · have hsome : cycle.filter Event.isLeverStep ≠ [] := fun hnone => by simp [hnone] at hlen
    obtain ⟨t, hrun, hpart, hforward⟩ := runs_of_one_leverStep cycle false s hl hreset hlen huse
    have hcommand := State.actuatorCommand_eq_of_leverPart hpart
    refine ⟨t, _, hrun, exec_lvs _, fun _ => ⟨?_, hcommand, congrArg (·.lever) hpart, congrArg (·.tacc) hpart,
      congrArg (·.tign) hpart, fun n hn => ?_⟩, fun hnone => ?_⟩
    · rw [hforward, hcommand]
      rfl
    · rcases Nat.le_one_iff_eq_zero_or_eq_one.1 (Nat.le_of_lt_succ hn) with rfl | rfl
      · exact ⟨congrArg (·.samples.1) hpart, congrArg (·.outputs.1) hpart⟩
      · exact ⟨congrArg (·.samples.2) hpart, congrArg (·.outputs.2) hpart⟩
    · cases hnone.symm.trans (hany.2 hsome)

end Sys2Proof.Machine
